-- ==== Sys2Proof/Word.lean ====
section
/-! DEFINITION. The word types of SLAP-CORE and their plainest arithmetic: bytes, sequence numbers, ticks, and the
two byte orders of the wire (spec/00_scope.md section 5.1, R10, R11, R66). -/

namespace Sys2Proof

/-- A byte: 8 bits (00_scope.md section 5.1). -/
abbrev Byte := BitVec 8

/-- A sequence or acknowledgment number: 8 bits, all sums and differences modulo M = 256 (R10). -/
abbrev Seq := BitVec 8

/-- A count of ticks or a deadline: 32 bits, sums modulo 2^32 (R11). -/
abbrev Ticks := BitVec 32

/-- A host command or response word (R95, R96). -/
abbrev Word64 := BitVec 64

/-- `BE16(v)`: high byte first (00_scope.md section 5.1). -/
def be16 (v : BitVec 16) : List Byte := [v.extractLsb' 8 8, v.extractLsb' 0 8]

/-- `LE16(v)`: low byte first (00_scope.md section 5.1). -/
def le16 (v : BitVec 16) : List Byte := [v.extractLsb' 0 8, v.extractLsb' 8 8]

/-- The 16-bit value of a high and a low byte (R100). -/
def word16 (hi lo : Byte) : BitVec 16 := hi ++ lo

end Sys2Proof
end

