-- ==== Sys2Proof/Config.lean ====
section
/-! DEFINITION. What an implementation fixes: the build parameters of R7, and the one free value of the model, the
byte a storage cell holds that no rule has written (R52, R77, 93_implementation_defined.md U6, U11). -/

namespace Sys2Proof

/-- The build parameters of R7, fixed when an instance is built. They are "arguments of the model", so State holds
them and no step writes them (log entry 1). -/
structure Build where
  /-- `W_MAX`: slots in the sender window file and in the reassembly file. -/
  wMax : Nat
  /-- `P_MAX`: largest payload, in bytes, a slot can hold. -/
  pMax : Nat
  /-- `APP_CAP`: capacity of the application buffer, in bytes. -/
  appCap : Nat
deriving DecidableEq, Repr

/-- The constraints of R7: `W_MAX` a power of two from 1 to 128, `1 <= P_MAX <= 65535`,
`P_MAX <= APP_CAP < 2^32`. -/
def Build.ok (b : Build) : Bool :=
  [1, 2, 4, 8, 16, 32, 64, 128].contains b.wMax && (1 ≤ b.pMax && b.pMax ≤ 65535) &&
    (b.pMax ≤ b.appCap && b.appCap < 2 ^ 32)

/-- `RXCAP`, fixed: `P_MAX + 7` (R7). -/
def Build.rxCap (b : Build) : Nat := b.pMax + 7

/-- The capacity of `TXBUF`: `2 * (P_MAX + 7) + 2` (R50). -/
def Build.txCap (b : Build) : Nat := 2 * (b.pMax + 7) + 2

/-- The reference values of R7. -/
def Build.reference : Build := { wMax := 8, pMax := 256, appCap := 2048 }

/-- The three byte stores whose cells are unspecified until a rule writes them (R60): the payload of sender slot
`i`, the payload of reassembly slot `j`, and the decoder's frame buffer. -/
inductive Store where
  | sw (i : Nat)
  | rb (j : Nat)
  | rx
deriving DecidableEq, Repr

/-- FREE VALUE (log entry 2): the byte a cell holds that no rule has written since reset number `epoch`; "a model
must not constrain the value" (93_implementation_defined.md U6, U11). It has no body that a proof can see. -/
opaque Config.unwrittenByte (epoch : Nat) (st : Store) (offset : Nat) : Byte

end Sys2Proof
end

