-- ==== Sys2Proof/Syntax.lean ====
section
/-! DEFINITION. The operations of spec/opcode_table.json: the eight host commands (R97) and the four frame types
with the FIN variant (R84, R91). A field the receiver ignores (`RSV`, an ignored `ARG16` or `ARG32`, the `SEQ` of an
ACK, the reserved flag bits of an LCTRL) is no operand. -/

namespace Sys2Proof

/-- One constructor per row of spec/opcode_table.json. -/
inductive Instr where
  /-- `NOP`, opcode 0x00 (R186). -/
  | nop
  /-- `START`, opcode 0x01 (R187). -/
  | start
  /-- `CLOSE`, opcode 0x02 (R188). -/
  | close
  /-- `SCHED_LCTRL`, opcode 0x03 (R171). -/
  | schedLctrl
  /-- `PUSH`, opcode 0x04: the run of `ARG16` data bytes that follows the command word (R191). -/
  | push (buf : List Byte)
  /-- `PULL maxLen, timeout`, opcode 0x05, port R (R156). -/
  | pull (maxLen : BitVec 16) (timeout : Ticks)
  /-- `RDCSR idx`, opcode 0x06 (R193). -/
  | rdcsr (idx : Byte)
  /-- `WRCSR idx, v`, opcode 0x07 (R194). -/
  | wrcsr (idx : Byte) (v : BitVec 32)
  /-- A received DATA frame, type 0x01 (R89). -/
  | data (seq ack : Seq) (payload : List Byte)
  /-- A received ACK frame, type 0x02 (R90). -/
  | ack (ackNo : Seq)
  /-- A received NACK frame, type 0x03 (R90). -/
  | nack (ackNo : Seq)
  /-- A received LCTRL frame with flag FIN clear, type 0x04 (R91). -/
  | lctrl (rsp : Bool) (pkt : BitVec 16) (win : Byte)
  /-- A received LCTRL frame with flag FIN set: the close notification (R177, R178). -/
  | lctrlFin (rsp : Bool) (pkt : BitVec 16) (win : Byte)
deriving DecidableEq, Repr

/-- The encoded form of an operation: what a host port carries as one event (R95), or an unstuffed frame body from
`TYPE` to `FCS` (R82). -/
inductive Encoded where
  | portT (word : Word64) (data : List Byte)
  | portR (word : Word64)
  | frame (body : List Byte)
deriving DecidableEq, Repr

end Sys2Proof
end

