-- ==== Sys2Proof/WellFormed.lean ====
section
/-! DEFINITION. The checks on an operation's operands that its encoding or the spec imposes: byte runs that fit their
16-bit length field (R87, R95, R113) and LCTRL proposals of at least 1 (R91, R116 step 5). -/

namespace Sys2Proof

/-- Why an operation is ill-formed. -/
inductive IllFormed where
  /-- A `PUSH` of more than 65535 bytes: `ARG16` cannot count them (R102). -/
  | pushTooLong
  /-- A DATA payload of more than 65535 bytes: `LEN` cannot count them (R87). -/
  | payloadTooLong
  /-- A non-FIN LCTRL frame that proposes packet size 0 (R116 step 5). -/
  | zeroPacketSize
  /-- A non-FIN LCTRL frame that proposes window size 0 (R116 step 5). -/
  | zeroWindowSize
deriving DecidableEq, Repr

/-- The first check an operation fails, if any. -/
def Instr.illFormed : Instr → Option IllFormed
  | .nop => none
  | .start => none
  | .close => none
  | .schedLctrl => none
  | .push buf => if 65535 < buf.length then some .pushTooLong else none
  | .pull _ _ => none
  | .rdcsr _ => none
  | .wrcsr _ _ => none
  | .data _ _ payload => if 65535 < payload.length then some .payloadTooLong else none
  | .ack _ => none
  | .nack _ => none
  | .lctrl _ pkt win =>
    if pkt = 0 then some .zeroPacketSize else if win = 0 then some .zeroWindowSize else none
  | .lctrlFin _ _ _ => none

/-- The operation passes every check. -/
def Instr.wellFormed (i : Instr) : Bool := i.illFormed.isNone

end Sys2Proof
end

