-- ==== Sys2Proof/Decode.lean ====
section
/-! DEFINITION. Encodings (spec/30_encoding.md, spec/40_framecodec.md): the integrity check, byte stuffing, the
decoder of host command words and of frame bodies, the encoder after it, and the host's view of the opcode table. -/

namespace Sys2Proof

/-! ### Integrity check (R111) and byte stuffing (R92, R112) -/

/-- One of the eight shifts of R111. -/
def crcBit (c : BitVec 16) : BitVec 16 :=
  if c.getLsbD 0 then (c >>> 1) ^^^ 0x8408#16 else c >>> 1

/-- One byte of R111's loop. -/
def crcByte (c : BitVec 16) (b : Byte) : BitVec 16 :=
  crcBit (crcBit (crcBit (crcBit (crcBit (crcBit (crcBit (crcBit (c ^^^ b.setWidth 16))))))))

/-- `CRC16(s)` (R111). -/
def crc16 (s : List Byte) : BitVec 16 := s.foldl crcByte 0xFFFF#16 ^^^ 0xFFFF#16

/-- The flag byte (R81). -/
def flagByte : Byte := 0x7E#8

/-- The escape byte `ESC` (R92). -/
def escByte : Byte := 0x7D#8

/-- What R92 puts on the wire for one body byte. -/
def stuffByte (b : Byte) : List Byte :=
  if b = flagByte ∨ b = escByte then [escByte, b ^^^ 0x20#8] else [b]

/-- `STUFF(s)` (R112). -/
def stuff (s : List Byte) : List Byte := s.flatMap stuffByte

/-! ### Decoding -/

/-- Why the decoder rejects an encoding. -/
inductive DecodeReject where
  /-- Opcode 0x08 to 0xFF on port T (R99): answered BADCMD. -/
  | reservedOpcode
  /-- `PULL` on port T, or anything else on port R (R99): answered BADCMD. -/
  | wrongPort
  /-- A `PUSH` word with fewer than `ARG16` data bytes: no event is offered (93_implementation_defined.md U27). -/
  | missingData
  /-- A frame body of fewer than 7 bytes (R116 step 1). -/
  | tooShort
  /-- The integrity check fails (R116 step 2). -/
  | fcsMismatch
  /-- `TYPE` not in 0x01 to 0x04 (R116 step 3). -/
  | unknownType
  /-- `LEN` is not the number of payload bytes present (R116 step 4). -/
  | lenMismatch
  /-- An ACK or NACK frame with a payload (R116 step 5). -/
  | ackNackPayload
  /-- An LCTRL frame whose `LEN` is not 3 (R116 step 5). -/
  | lctrlLength
deriving DecidableEq, Repr

/-- Field `OPC` of a command word (R95). -/
def opcOf (w : Word64) : Byte := w.extractLsb' 56 8
/-- Field `ARG16` of a command word (R95). -/
def arg16Of (w : Word64) : BitVec 16 := w.extractLsb' 32 16
/-- Field `ARG32` of a command word (R95). -/
def arg32Of (w : Word64) : BitVec 32 := w.extractLsb' 0 32
/-- `ARG16[7:0]`, the CSR index of `RDCSR` and `WRCSR` (R97). -/
def idxOf (w : Word64) : Byte := w.extractLsb' 32 8

/-- A command word on port T with the data bytes offered after it (R95, R97, R99). Of the bytes offered `PUSH` takes
the first `ARG16`; every other command takes none. -/
def decodePortT (w : Word64) (offered : List Byte) : Except DecodeReject Instr :=
  match (opcOf w).toNat with
  | 0x00 => .ok .nop
  | 0x01 => .ok .start
  | 0x02 => .ok .close
  | 0x03 => .ok .schedLctrl
  | 0x04 =>
    let n := (arg16Of w).toNat
    if offered.length < n then .error .missingData else .ok (.push (offered.take n))
  | 0x05 => .error .wrongPort
  | 0x06 => .ok (.rdcsr (idxOf w))
  | 0x07 => .ok (.wrcsr (idxOf w) (arg32Of w))
  | _ => .error .reservedOpcode

/-- A command word on port R (R95, R99). -/
def decodePortR (w : Word64) : Except DecodeReject Instr :=
  if opcOf w = 0x05#8 then .ok (.pull (arg16Of w) (arg32Of w)) else .error .wrongPort

/-- Byte `k` of a frame body; every use is at an index inside the body. -/
def byteAt (F : List Byte) (k : Nat) : Byte := F.getD k 0#8

/-- An unstuffed frame body: steps 1 to 5 of `FRAME_CHECK` (R116) in their order, less step 5's test for a proposal
of 0, which is `Instr.illFormed`. -/
def decodeFrame (F : List Byte) : Except DecodeReject Instr :=
  let n := F.length
  if n < 7 then .error .tooShort
  else if crc16 (F.take (n - 2)) ≠ word16 (byteAt F (n - 1)) (byteAt F (n - 2)) then .error .fcsMismatch
  else
    let type := byteAt F 0
    let seq := byteAt F 1
    let ack := byteAt F 2
    let len := (word16 (byteAt F 3) (byteAt F 4)).toNat
    let payload := (F.drop 5).take len
    if ¬ (type = 0x01#8 ∨ type = 0x02#8 ∨ type = 0x03#8 ∨ type = 0x04#8) then .error .unknownType
    else if len ≠ n - 7 then .error .lenMismatch
    else if type = 0x01#8 then .ok (.data seq ack payload)
    else if type = 0x04#8 then
      if len ≠ 3 then .error .lctrlLength
      else
        let pkt := word16 (byteAt payload 0) (byteAt payload 1)
        let win := byteAt payload 2
        if seq.getLsbD 1 then .ok (.lctrlFin (seq.getLsbD 0) pkt win)
        else .ok (.lctrl (seq.getLsbD 0) pkt win)
    else if len ≠ 0 then .error .ackNackPayload
    else if type = 0x02#8 then .ok (.ack ack)
    else .ok (.nack ack)

/-- The decoder: total on every encoded form. -/
def decode : Encoded → Except DecodeReject Instr
  | .portT w offered => decodePortT w offered
  | .portR w => decodePortR w
  | .frame body => decodeFrame body

/-! ### Encoding -/

/-- A command word from its fields (R95); `RSV` is written 0. -/
def cmdWord (opc : Byte) (arg16 : BitVec 16) (arg32 : BitVec 32) : Word64 := opc ++ 0#8 ++ arg16 ++ arg32

/-- Header and payload of a frame body (R82): the bytes the integrity check covers (R88). -/
def frameHead (type seq ack : Byte) (payload : List Byte) : List Byte :=
  type :: seq :: ack :: (be16 (BitVec.ofNat 16 payload.length) ++ payload)

/-- The unstuffed frame body of R82. -/
def frameBody (type seq ack : Byte) (payload : List Byte) : List Byte :=
  frameHead type seq ack payload ++ le16 (crc16 (frameHead type seq ack payload))

/-- `ENCODE(type, seq, ack, payload)` (R113): the bytes of one frame on the wire. -/
def encodeFrame (type seq ack : Byte) (payload : List Byte) : List Byte :=
  flagByte :: (stuff (frameBody type seq ack payload) ++ [flagByte])

/-- The flag byte of an LCTRL frame: bit 0 `RSP`, bit 1 `FIN`, bits 7:2 written 0 (R83, R85). -/
def lctrlFlags (fin rsp : Bool) : Byte := 0#6 ++ BitVec.ofBool fin ++ BitVec.ofBool rsp

/-- The payload of an LCTRL frame: `BE16(pkt) ++ [win]` (R91). -/
def lctrlPayload (pkt : BitVec 16) (win : Byte) : List Byte := be16 pkt ++ [win]

/-- The encoded form of an operation, written from R95, R97 and R82 to R91; ignored fields are written 0. -/
def encode : Instr → Encoded
  | .nop => .portT (cmdWord 0x00 0 0) []
  | .start => .portT (cmdWord 0x01 0 0) []
  | .close => .portT (cmdWord 0x02 0 0) []
  | .schedLctrl => .portT (cmdWord 0x03 0 0) []
  | .push buf => .portT (cmdWord 0x04 (BitVec.ofNat 16 buf.length) 0) buf
  | .pull maxLen timeout => .portR (cmdWord 0x05 maxLen timeout)
  | .rdcsr idx => .portT (cmdWord 0x06 (0#8 ++ idx) 0) []
  | .wrcsr idx v => .portT (cmdWord 0x07 (0#8 ++ idx) v) []
  | .data seq ack payload => .frame (frameBody 0x01 seq ack payload)
  | .ack ackNo => .frame (frameBody 0x02 0 ackNo [])
  | .nack ackNo => .frame (frameBody 0x03 0 ackNo [])
  | .lctrl rsp pkt win => .frame (frameBody 0x04 (lctrlFlags false rsp) 0 (lctrlPayload pkt win))
  | .lctrlFin rsp pkt win => .frame (frameBody 0x04 (lctrlFlags true rsp) 0 (lctrlPayload pkt win))

/-! ### The words of spec/opcode_table.json -/

/-- The encoded form that the bits `w` of a table row stand for (log entry 3). A row of 64 bits is a command word,
with the data bytes of `PUSH` all 0. A shorter row is a frame: bits 15..0 are `(TYPE << 8) | SEQ`, the table's own
numbering; the fields above are `ACK`, then `LEN` at the value the row's encoding fixes (3 for LCTRL, 0 otherwise),
then the payload and the integrity check of it all. An LCTRL payload is zeros with FIN set and the smallest legal
proposal, 1 and 1, with FIN clear: a proposal of zeros is dropped (R116 step 5). -/
def tableEncoded (nbits w : Nat) : Option Encoded :=
  if nbits = 64 then
    let word := BitVec.ofNat 64 w
    if opcOf word = 0x05#8 then some (.portR word)
    else if opcOf word = 0x04#8 then some (.portT word (List.replicate (arg16Of word).toNat 0#8))
    else some (.portT word [])
  else if 16 ≤ nbits ∧ nbits < 64 then
    let type := BitVec.ofNat 8 (w / 256)
    let seq := BitVec.ofNat 8 w
    let proposal := if seq.getLsbD 1 then lctrlPayload 0 0 else lctrlPayload 1 1
    some (.frame (frameBody type seq (BitVec.ofNat 8 (w / 65536)) (if type = 0x04#8 then proposal else [])))
  else none

/-- The instruction the decoder reads from the bits of a row of spec/opcode_table.json; none where it rejects. -/
def decodeTableWord (nbits w : Nat) : Option Instr :=
  match tableEncoded nbits w with
  | none => none
  | some e =>
    match decode e with
    | .ok i => some i
    | .error _ => none

end Sys2Proof
end

