-- ==== Sys2Proof/Machine/State.lean ====
section
/-! DEFINITION. The state of one SLAP-CORE instance as plain data (spec/10_state.md R20 to R53), the outcomes that
stop a step, and the state after reset (R52, R265). -/

namespace Sys2Proof.Machine

/-! ### The values of the small registers -/

/-- The values of `PHASE` (R24); 5, 6 and 7 never occur. -/
inductive Phase where
  | idle | negotiating | opened | closed | dead
deriving DecidableEq, Repr

/-- The values of `CLOSE_CAUSE` (R25). -/
inductive CloseCause where
  | notClosed | localClose | peerFin
deriving DecidableEq, Repr

/-- The values of `ACKREQ` (R29). -/
inductive AckReq where
  | none | ack | nack
deriving DecidableEq, Repr

/-- The values of `RXS` (R32). -/
inductive RxState where
  | hunt | inframe
deriving DecidableEq, Repr

/-- The values of `SW[i].st` (R131). -/
inductive SlotState where
  | free | sent | ackPending
deriving DecidableEq, Repr

/-- The codes of `DEAD_CAUSE` (R238). -/
inductive DeadCause where
  | none | retryExhausted | rxErr | rxEos | txErr | txEos
deriving DecidableEq, Repr

/-- What the frame in `TXBUF` is: `TX_CUR` (R50). -/
inductive TxCur where
  | none | fin | lctrl | ack
  /-- `DATA(i, s)`: the frame of slot `i` with sequence number `s`. -/
  | data (i : Nat) (s : Seq)
deriving DecidableEq, Repr

/-- The drop counters (R43). -/
inductive DropCounter where
  | fcs | format | oversize | seq
deriving DecidableEq, Repr

/-- The notification flags (R34). -/
inductive IrqFlag where
  | rxData | txSpace | negotiated | closed | dead
deriving DecidableEq, Repr

/-- The status codes of a response (R98). -/
inductive Status where
  | ok | timeout | closed | dead | badCmd | badArg | locked
deriving DecidableEq, Repr

/-- The control and status registers, in the order of their indices 0x00 to 0x1A (R37). -/
inductive Csr where
  | id | cap | cap2 | state | localPkt | localWin | baud | effPkt | effWin | rtoInit | rtoMax | retryMax
  | lctrlPeriod | now | sndUna | sndNext | rcvExp | winCount | appCount | irqStatus | irqEnable | deadCause
  | deadInfo | dropFcs | dropFormat | dropOversize | dropSeq
deriving DecidableEq, Repr

/-- The access classes of R36. -/
inductive CsrClass where
  | ro | rwi | rw | w1c
deriving DecidableEq, Repr

/-! ### Stores and slots -/

/-- A byte store: its written cells by byte offset. One canonical form: offsets strictly rising (`Memory.wf`). A
cell that is not listed has never been written and holds no value of its own (R77, log entry 2). -/
abbrev Memory := List Host.Cell

/-- One slot of the sender window file (R44). -/
structure SwSlot where
  st : SlotState := .free
  seq : Seq := 0
  len : BitVec 16 := 0
  data : Memory := []
  ts : Ticks := 0
  deadline : Ticks := 0
  retry : BitVec 8 := 0
  txreq : Bool := false
  fastrx : Bool := false
deriving DecidableEq, Repr

/-- One slot of the reassembly file (R46). -/
structure RbSlot where
  valid : Bool := false
  seq : Seq := 0
  len : BitVec 16 := 0
  data : Memory := []
deriving DecidableEq, Repr

/-! ### Events and outputs -/

/-- The events of R210. A host command is its word and, on port T, the data bytes offered after it (R65). -/
inductive Event where
  | cmdT (word : Word64) (offered : List Byte)
  | cmdR (word : Word64)
  | rxByte (b : Byte)
  | txByte
  | linkFault (kind : BitVec 3)
  | tick
  | reset
deriving DecidableEq, Repr

/-- `RESP_T(status, count, value)` (R96). -/
structure RespT where
  status : Status
  count : BitVec 16
  value : BitVec 32
deriving DecidableEq, Repr

/-- `RESP_R(status, bytes)`, with `COUNT = |bytes|` (R96). -/
structure RespR where
  status : Status
  bytes : List Byte
deriving DecidableEq, Repr

/-- What a step emits: at most one RESP_T, at most one RESP_R, at most one WIRE byte (R211). -/
structure Outputs where
  respT : Option RespT := none
  respR : Option RespR := none
  wire : Option Byte := none
deriving DecidableEq, Repr

/-! ### The state -/

/-- The state of one instance. Field names are the spec's in lower camel case; INVENTORY.md names the rule of each. -/
structure State where
  /-- Build parameters (R7); no step writes them (log entry 1). -/
  build : Build
  sndNext : Seq
  sndUna : Seq
  rcvExp : Seq
  phase : Phase
  frozen : Bool
  closeCause : CloseCause
  now : Ticks
  lctrlDeadline : Ticks
  ackReq : AckReq
  lctrlReq : Bool
  finReq : Bool
  rxEn : Bool
  rxs : RxState
  rxEsc : Bool
  rxbuf : Memory
  rxlen : Nat
  pullPend : Bool
  pullMax : BitVec 16
  pullInf : Bool
  pullNowait : Bool
  pullDeadline : Ticks
  irqStatus : BitVec 5
  irqEnable : BitVec 5
  localPkt : BitVec 16
  localWin : BitVec 8
  baud : BitVec 32
  effPkt : BitVec 16
  effWin : BitVec 8
  rtoInit : Ticks
  rtoMax : Ticks
  retryMax : BitVec 8
  lctrlPeriod : Ticks
  deadCause : DeadCause
  deadInfo : Byte
  dropFcs : BitVec 16
  dropFormat : BitVec 16
  dropOversize : BitVec 16
  dropSeq : BitVec 16
  sw : List SwSlot
  rb : List RbSlot
  app : List Byte
  txbuf : List Byte
  txCur : TxCur
  /-- The MODEL's own: the events the environment will offer, next first (log entry 5). -/
  events : List Event
  /-- The MODEL's own: the outputs of the most recent step (log entry 8). -/
  out : Outputs
  /-- The MODEL's own: the number of reset events so far, an argument of the free value (log entry 2). -/
  epoch : Nat
deriving DecidableEq, Repr

/-- Why the machine stops with a fault: never. "Every event in every state has a rule" and "no event stops the block
from taking further events" (93_implementation_defined.md, R235), so the type has no constructor (log entry 11). -/
inductive Fault where
deriving DecidableEq, Repr

/-- Why the model refuses an instruction. -/
inductive Refusal where
  /-- Raised by `exec`'s arm of an instruction that has no meaning yet, and by nothing else. Safe: nothing is claimed
  of what the instruction does. No arm raises it now. -/
  | notModelled (mnemonic : String)
deriving DecidableEq, Repr

/-! ### Reset -/

/-- The table of R52 for a build: every piece of state after the reset event. The unspecified bytes (slot payloads
and the frame buffer) are cells that are not listed. -/
def State.resetOf (b : Build) : State where
  build := b
  sndNext := 0
  sndUna := 0
  rcvExp := 0
  phase := .idle
  frozen := false
  closeCause := .notClosed
  now := 0
  lctrlDeadline := 0
  ackReq := .none
  lctrlReq := false
  finReq := false
  rxEn := false
  rxs := .hunt
  rxEsc := false
  rxbuf := []
  rxlen := 0
  pullPend := false
  pullMax := 0
  pullInf := false
  pullNowait := false
  pullDeadline := 0
  irqStatus := 0
  irqEnable := 0
  localPkt := BitVec.ofNat 16 b.pMax
  localWin := BitVec.ofNat 8 b.wMax
  baud := 0
  effPkt := 0
  effWin := 0
  rtoInit := 200
  rtoMax := 3200
  retryMax := 8
  lctrlPeriod := 500
  deadCause := .none
  deadInfo := 0
  dropFcs := 0
  dropFormat := 0
  dropOversize := 0
  dropSeq := 0
  sw := List.replicate b.wMax {}
  rb := List.replicate b.wMax {}
  app := []
  txbuf := []
  txCur := .none
  events := []
  out := {}
  epoch := 0

/-- The machine right after reset: R52 at the reference build of R7 (log entry 1), with no event offered yet. -/
def State.reset : State := State.resetOf Build.reference

end Sys2Proof.Machine
end

