-- ==== Sys2Proof/Machine/Flags.lean ====
section
/-! DEFINITION. The derived signals of R35 and the codes of the small registers: functions of the state that hold no
state of their own, and the bit positions of the notification flags (R34). -/

namespace Sys2Proof.Machine

/-- `n_out = (SND_NEXT - SND_UNA) mod 256`: the number of outstanding frames (R22, R130). -/
def nOut (s : State) : Nat := (s.sndNext - s.sndUna).toNat

/-- `WIN_FULL` (R35). -/
def winFull (s : State) : Bool := s.effWin.toNat ≤ nOut s

/-- `APP_FREE = APP_CAP - |APP|` (R35). -/
def appFree (s : State) : Nat := s.build.appCap - s.app.length

/-- *Live*: NEGOTIATING or OPEN (00_scope.md section 6). -/
def Phase.live : Phase → Bool
  | .idle => false
  | .negotiating => true
  | .opened => true
  | .closed => false
  | .dead => false

/-- The 3-bit code of `PHASE` (R24). -/
def Phase.code : Phase → BitVec 3
  | .idle => 0
  | .negotiating => 1
  | .opened => 2
  | .closed => 3
  | .dead => 4

/-- The 2-bit code of `CLOSE_CAUSE` (R25). -/
def CloseCause.code : CloseCause → BitVec 2
  | .notClosed => 0
  | .localClose => 1
  | .peerFin => 2

/-- The 3-bit code of `DEAD_CAUSE` (R238). -/
def DeadCause.code : DeadCause → BitVec 3
  | .none => 0
  | .retryExhausted => 1
  | .rxErr => 2
  | .rxEos => 3
  | .txErr => 4
  | .txEos => 5

/-- The status codes of R98. -/
def Status.code : Status → Byte
  | .ok => 0x00
  | .timeout => 0x01
  | .closed => 0x02
  | .dead => 0x03
  | .badCmd => 0x04
  | .badArg => 0x05
  | .locked => 0x06

/-- The bit of `IRQ_STATUS` and `IRQ_ENABLE` that a notification flag is (R34). -/
def IrqFlag.bit : IrqFlag → BitVec 5
  | .rxData => 0b00001
  | .txSpace => 0b00010
  | .negotiated => 0b00100
  | .closed => 0b01000
  | .dead => 0b10000

/-- The interrupt line: `(IRQ_STATUS and IRQ_ENABLE) != 0` (R35, R241). -/
def irq (s : State) : Bool := s.irqStatus &&& s.irqEnable != 0

/-- `LINK_RELEASED` (R35, R196). -/
def linkReleased (s : State) : Bool :=
  s.phase == .dead || (s.phase == .closed && s.txbuf.isEmpty && !s.finReq)

/-- `tx_valid` (R35, R64). -/
def txValid (s : State) : Bool := !s.txbuf.isEmpty

/-- `tx_data`: the head byte of `TXBUF` (R64). -/
def txData (s : State) : Option Byte := s.txbuf.head?

/-- `rx_ready` (R35, R64). -/
def rxReady (s : State) : Bool := s.rxEn

/-- The cumulative acknowledgment number the block sends: `(RCV_EXP - 1) mod 256` (R86, R155). -/
def ackNumber (s : State) : Seq := s.rcvExp - 1

/-- The response word of port T (R96). -/
def RespT.word (r : RespT) : Word64 := r.status.code ++ 0#8 ++ r.count ++ r.value

/-- The response word of port R (R96); the bytes follow it. -/
def RespR.word (r : RespR) : Word64 := r.status.code ++ 0#8 ++ BitVec.ofNat 16 r.bytes.length ++ 0#32

end Sys2Proof.Machine
end

