-- ==== Sys2Proof/Machine/Ops.lean ====
section
/-! DEFINITION. The named operations every rule is written over: byte stores, slots, outputs, notification flags,
`DROP` (R118), back-off (R12), the fatal mechanism `FATAL` (R237) and, beside it, the only way out of DEAD, the
reset event (R244, R265). -/

namespace Sys2Proof.Machine

/-! ### Byte stores (R62, R77) -/

/-- The byte a cell was last written with, if any. -/
def Memory.read : Memory → Nat → Option Byte
  | [], _ => none
  | (a', b') :: m, a => if a = a' then some b' else Memory.read m a

/-- Write one byte, keeping the offsets strictly rising. -/
def Memory.write : Memory → Nat → Byte → Memory
  | [], a, b => [(a, b)]
  | (a', b') :: m, a, b =>
    if a < a' then (a, b) :: (a', b') :: m
    else if a = a' then (a, b) :: m
    else (a', b') :: Memory.write m a b

/-- Write a run of bytes at offsets `a`, `a + 1`, ...; every other cell keeps what it held (R62). -/
def Memory.writeRun : Memory → Nat → List Byte → Memory
  | m, _, [] => m
  | m, a, b :: bs => Memory.writeRun (Memory.write m a b) (a + 1) bs

/-- The bytes at offsets 0 to `n - 1`; `fill` stands for a cell never written (R77). -/
def Memory.readRun (fill : Nat → Byte) (m : Memory) (n : Nat) : List Byte :=
  (List.range n).map fun k => (m.read k).getD (fill k)

/-- Offsets strictly rising: the canonical form of a byte store. -/
def Memory.wf : Memory → Bool
  | [] => true
  | [_] => true
  | c :: d :: m => c.1 < d.1 && Memory.wf (d :: m)

/-! ### Slots (R44 to R46) -/

/-- The slot index of a sequence number: `q mod W_MAX` (R45). -/
def slotIndex (s : State) (q : Seq) : Nat := q.toNat % s.build.wMax

/-- `SW[i]`. -/
def swAt (s : State) (i : Nat) : SwSlot := s.sw.getD i {}

/-- `RB[j]`. -/
def rbAt (s : State) (j : Nat) : RbSlot := s.rb.getD j {}

/-- Change `SW[i]`. -/
def modifySw (s : State) (i : Nat) (f : SwSlot → SwSlot) : State := { s with sw := s.sw.modify i f }

/-- Change `RB[j]`. -/
def modifyRb (s : State) (j : Nat) (f : RbSlot → RbSlot) : State := { s with rb := s.rb.modify j f }

/-- The slot index of the `k`-th outstanding frame: `((SND_UNA + k) mod 256) mod W_MAX` (R130). -/
def outIndex (s : State) (k : Nat) : Nat := slotIndex s (s.sndUna + BitVec.ofNat 8 k)

/-- `SW[i].data[0 .. SW[i].len - 1]`. -/
def swPayload (s : State) (i : Nat) : List Byte :=
  (swAt s i).data.readRun (Config.unwrittenByte s.epoch (.sw i)) (swAt s i).len.toNat

/-- `RB[j].data[0 .. RB[j].len - 1]`. -/
def rbPayload (s : State) (j : Nat) : List Byte :=
  (rbAt s j).data.readRun (Config.unwrittenByte s.epoch (.rb j)) (rbAt s j).len.toNat

/-- `RXBUF[0 .. RXLEN - 1]` (R49). -/
def rxBody (s : State) : List Byte :=
  s.rxbuf.readRun (Config.unwrittenByte s.epoch .rx) s.rxlen

/-! ### Outputs (R96, R211) -/

/-- `emit RESP_T(status, count, value)`. -/
def emitT (s : State) (status : Status) (count : BitVec 16) (value : BitVec 32) : State :=
  { s with out := { s.out with respT := some { status := status, count := count, value := value } } }

/-- `emit RESP_R(status, bytes)`. -/
def emitR (s : State) (status : Status) (bytes : List Byte) : State :=
  { s with out := { s.out with respR := some { status := status, bytes := bytes } } }

/-- `emit WIRE(b)`. -/
def emitWire (s : State) (b : Byte) : State := { s with out := { s.out with wire := some b } }

/-! ### Flags and counters -/

/-- Set one bit of `IRQ_STATUS` (R34). -/
def setIrq (s : State) (f : IrqFlag) : State := { s with irqStatus := s.irqStatus ||| f.bit }

/-- `SATINC(c)`: `c <- min(c + 1, 0xFFFF)` (R14). -/
def satInc (c : BitVec 16) : BitVec 16 := BitVec.ofNat 16 (min (c.toNat + 1) 0xFFFF)

/-- `DROP(counter)`: `SATINC` and nothing else (R118). -/
def drop (s : State) : DropCounter → State
  | .fcs => { s with dropFcs := satInc s.dropFcs }
  | .format => { s with dropFormat := satInc s.dropFormat }
  | .oversize => { s with dropOversize := satInc s.dropOversize }
  | .seq => { s with dropSeq := satInc s.dropSeq }

/-! ### Time (R11, R12) -/

/-- `interval(r) = min(RTO_INIT * 2^r, RTO_MAX)` over the naturals (R12). -/
def interval (s : State) (r : Nat) : Nat := min (s.rtoInit.toNat * 2 ^ r) s.rtoMax.toNat

/-- The deadline `(NOW + interval(r)) mod 2^32` (R132, R135). -/
def rtoDeadline (s : State) (r : Nat) : Ticks := s.now + BitVec.ofNat 32 (interval s r)

/-! ### The fatal mechanism, and the way out of it -/

/-- `FATAL(cause, info)` (R237): the machine's one exception. The cause and the information are saved, `PHASE`
becomes DEAD, reception stops, what was being transmitted is cut off, and the DEAD flag is set; nothing else is
written (R243). -/
def fatal (s : State) (cause : DeadCause) (info : Byte) : State :=
  setIrq
    { s with
      phase := .dead, deadCause := cause, deadInfo := info, rxEn := false, txbuf := [], txCur := .none }
    .dead

/-- The reset event (R265): every piece of state takes the value of R52; it emits nothing. There is no return from
`FATAL` (R244): only this leaves DEAD or CLOSED. The build stays, and so do the events the environment has yet to
offer; unwritten bytes are unspecified anew (log entry 2). -/
def resetEvent (s : State) : State :=
  { State.resetOf s.build with events := s.events, epoch := s.epoch + 1 }

end Sys2Proof.Machine
end

