-- ==== Sys2Proof/Machine/Sender.lean ====
section
/-! DEFINITION. WindowSender (spec/41_windowsender.md): `SEND`, `ONACK`, `ONNACK`, `ONTIMEOUT`, `SENDER_TICK`. -/

namespace Sys2Proof.Machine

/-- `SEND(chunk)` (R132): the frame takes the slot of `SND_NEXT`, its timer is armed, transmission is requested. -/
def send (s : State) (chunk : List Byte) : State :=
  { modifySw s (slotIndex s s.sndNext) (fun slot =>
      { st := .sent, seq := s.sndNext, len := BitVec.ofNat 16 chunk.length,
        data := slot.data.writeRun 0 chunk, ts := s.now, deadline := rtoDeadline s 0, retry := 0,
        txreq := true, fastrx := false }) with
    sndNext := s.sndNext + 1 }

/-- Change the slots of the first `n` outstanding frames, oldest first. -/
def modifyOutstanding (s : State) (n : Nat) (f : SwSlot → SwSlot) : State :=
  { s with sw := (List.range n).foldl (fun sw k => sw.modify (outIndex s k) f) s.sw }

/-- `n_acked` of R133: how many frames, from the oldest outstanding one, the number `a` would acknowledge. -/
def nAcked (s : State) (a : Seq) : Nat := (a - s.sndUna + 1).toNat

/-- `a` names an outstanding frame (R133). -/
def acksSomething (s : State) (a : Seq) : Bool := 1 ≤ nAcked s a && nAcked s a ≤ nOut s

/-- Free the slots of the acknowledged frames and advance `SND_UNA` past them (R133). -/
def retire (s : State) (n : Nat) : State :=
  { modifyOutstanding s n (fun slot => { slot with st := .free, txreq := false }) with
    sndUna := s.sndUna + BitVec.ofNat 8 n }

/-- "Resets retry counters for remaining frames" (R133). -/
def clearRetries (s : State) : State := modifyOutstanding s (nOut s) (fun slot => { slot with retry := 0 })

/-- `ONACK(a)` (R133). -/
def onAck (s : State) (a : Seq) : State :=
  if acksSomething s a then setIrq (clearRetries (retire s (nAcked s a))) .txSpace else s

/-- The fast retransmission of the oldest outstanding frame (R134). -/
def fastRetransmit (s : State) : State :=
  let i := slotIndex s s.sndUna
  if (swAt s i).st = .ackPending ∧ (swAt s i).fastrx = false then
    modifySw s i (fun slot => { slot with st := .sent, txreq := true, fastrx := true, ts := s.now })
  else s

/-- `ONNACK(a)` (R134). -/
def onNack (s : State) (a : Seq) : State :=
  let s1 := onAck s a
  if 0 < nOut s1 ∧ a + 1 = s1.sndUna then fastRetransmit s1 else s1

/-- `ONTIMEOUT(i)` (R135). -/
def onTimeout (s : State) (i : Nat) : State :=
  let r := (swAt s i).retry.toNat + 1
  if s.retryMax.toNat < r then fatal s .retryExhausted (swAt s i).seq
  else
    modifySw s i (fun slot =>
      { slot with
        retry := BitVec.ofNat 8 r, st := .sent, txreq := true, ts := s.now, deadline := rtoDeadline s r,
        fastrx := false })

/-- The scan of `SENDER_TICK` over the outstanding frames `ks`, oldest first; it ends when the stream dies (R136). -/
def scanTimers (s : State) : List Nat → State
  | [] => s
  | k :: ks =>
    if (swAt s (outIndex s k)).deadline = s.now then
      let s1 := onTimeout s (outIndex s k)
      if s1.phase = .dead then s1 else scanTimers s1 ks
    else scanTimers s ks

/-- `SENDER_TICK` (R136). -/
def senderTick (s : State) : State :=
  if s.phase = .opened then scanTimers s (List.range (nOut s)) else s

end Sys2Proof.Machine
end

