-- ==== Sys2Proof/Machine/Reassembler.lean ====
section
/-! DEFINITION. ReceiveReassembler, ACK/NACK generator and pull (spec/42_reassembler.md): `STORE`, `DRAIN`,
`ACKREQ_UPDATE`, `ONFRAME`, `PULL`, `PULL_CHECK`, `PULL_TICK`. -/

namespace Sys2Proof.Machine

/-- `STORE(seq, payload)` (R152). -/
def store (s : State) (seq : Seq) (payload : List Byte) : State :=
  let j := slotIndex s seq
  if (rbAt s j).valid then s
  else
    modifyRb s j (fun slot =>
      { valid := true, seq := seq, len := BitVec.ofNat 16 payload.length, data := slot.data.writeRun 0 payload })

/-- The loop test of `DRAIN` (R153): phase OPEN, the head slot holds the expected frame, and it fits. -/
def headReady (s : State) : Bool :=
  let slot := rbAt s (slotIndex s s.rcvExp)
  s.phase == .opened && slot.valid && slot.seq == s.rcvExp && slot.len.toNat ≤ appFree s

/-- The loop body of `DRAIN` (R153): deliver the head frame, whole, and advance. -/
def deliver (s : State) : State :=
  let j := slotIndex s s.rcvExp
  let s1 := { s with app := s.app ++ rbPayload s j }
  let s2 := if 0 < (rbAt s j).len.toNat then setIrq s1 .rxData else s1
  { modifyRb s2 j (fun slot => { slot with valid := false }) with rcvExp := s.rcvExp + 1 }

/-- The loop of `DRAIN`: the state it leaves and the number of frames delivered. Each round empties one slot, so
as many rounds as there are slots are enough for the loop to end by its own test (log entry 13). -/
def drainLoop : Nat → State → State × Nat
  | 0, s => (s, 0)
  | fuel + 1, s =>
    if headReady s then
      let r := drainLoop fuel (deliver s)
      (r.1, r.2 + 1)
    else (s, 0)

/-- `DRAIN()` (R153): the state it leaves and what it returns. -/
def drainCount (s : State) : State × Nat :=
  let r := drainLoop s.rb.length s
  (if 0 < r.2 then { r.1 with ackReq := .ack } else r.1, r.2)

/-- `DRAIN()` as a closing procedure: its result is not used (R211). -/
def drain (s : State) : State := (drainCount s).1

/-- `ACKREQ_UPDATE(d, n)` (R154). -/
def ackReqUpdate (s : State) (d n : Nat) : State :=
  if 0 < n then s
  else if 1 ≤ d ∧ (rbAt s (slotIndex s s.rcvExp)).valid = false then { s with ackReq := .nack }
  else if s.ackReq = .none then { s with ackReq := .ack }
  else s

/-- `ONFRAME(seq, payload)` (R151). -/
def onFrame (s : State) (seq : Seq) (payload : List Byte) : State :=
  let d := (seq - s.rcvExp).toNat
  if d < s.effWin.toNat then
    let r := drainCount (store s seq payload)
    ackReqUpdate r.1 d r.2
  else if 256 - s.effWin.toNat ≤ d then
    if s.ackReq = .none then { s with ackReq := .ack } else s
  else drop s .seq

/-- The pull registers a `PULL` with `maxLen > 0` writes (R156). -/
def armPull (s : State) (maxLen : BitVec 16) (timeout : Ticks) : State :=
  { s with
    pullPend := true, pullMax := maxLen, pullInf := timeout == 0xFFFFFFFF, pullNowait := timeout == 0,
    pullDeadline := s.now + timeout }

/-- `PULL maxLen, timeout` (R156): the meaning of the table's row PULL. -/
def pullCommand (s : State) (maxLen : BitVec 16) (timeout : Ticks) : State :=
  if maxLen = 0 then emitR s .ok [] else armPull s maxLen timeout

/-- Answer the pending `PULL` with bytes popped from `APP` (R157). -/
def answerPull (s : State) (status : Status) (k : Nat) : State :=
  { emitR s status (s.app.take k) with app := s.app.drop k, pullPend := false }

/-- `PULL_CHECK()` (R157); the order of the tests is normative. -/
def pullCheck (s : State) : State :=
  if s.pullPend = false then s
  else if 0 < s.app.length then answerPull s .ok (min s.pullMax.toNat s.app.length)
  else if s.phase = .closed then answerPull s .closed 0
  else if s.phase = .dead then answerPull s .dead 0
  else if s.pullNowait then answerPull s .timeout 0
  else s

/-- `PULL_TICK()` (R158). -/
def pullTick (s : State) : State :=
  if s.pullPend = true ∧ s.pullInf = false ∧ s.pullDeadline = s.now then { s with pullNowait := true } else s

end Sys2Proof.Machine
end

