-- ==== Sys2Proof/Machine/LinkControl.lean ====
section
/-! DEFINITION. LinkControlNegotiator (spec/43_linkcontrol.md) and the close procedure it shares with `CLOSE`
(spec/44_stream_host.md R189): `DO_CLOSE`, `LCTRL_TICK`, the freeze and the reply of `ONLCTRL`. -/

namespace Sys2Proof.Machine

/-- `DO_CLOSE(cause)` (R189): nothing is erased; a local close asks for one FIN frame. -/
def doClose (s : State) (cause : CloseCause) : State :=
  setIrq
    { s with
      phase := .closed, closeCause := cause, rxEn := false,
      finReq := if cause = .localClose then true else s.finReq }
    .closed

/-- `LCTRL_TICK()` (R172). -/
def lctrlTick (s : State) : State :=
  if s.phase = .negotiating ∧ s.lctrlDeadline = s.now then
    { s with lctrlReq := true, lctrlDeadline := s.now + s.lctrlPeriod }
  else s

/-- The freeze of `ONLCTRL` in phase NEGOTIATING (R174): the element-wise minimum, for good. -/
def freeze (s : State) (pkt : BitVec 16) (win : Byte) : State :=
  setIrq
    { s with
      effPkt := BitVec.ofNat 16 (min s.localPkt.toNat pkt.toNat),
      effWin := BitVec.ofNat 8 (min s.localWin.toNat win.toNat), frozen := true, phase := .opened }
    .negotiated

/-- `ONLCTRL` for a frame with flag FIN clear (R174), with the reply rule (R175). -/
def onLctrl (s : State) (rsp : Bool) (pkt : BitVec 16) (win : Byte) : State :=
  let s1 := if s.phase = .negotiating then freeze s pkt win else s
  if rsp then s1 else { s1 with lctrlReq := true }

end Sys2Proof.Machine
end

