-- ==== Sys2Proof/Machine/Arbiter.lean ====
section
/-! DEFINITION. LinkController (spec/45_arbiter_txmux.md): the transmit multiplexer `TX_KICK`, the link events
`TX_BYTE` and `LINK_FAULT`, the platform event `TICK` (spec/60_exceptions.md R252), and the closing procedures of a
step (R211). -/

namespace Sys2Proof.Machine

/-! ### The transmit multiplexer -/

/-- Load a frame into the free transmitter (R212, R213). -/
def loadFrame (s : State) (type seq ack : Byte) (payload : List Byte) (cur : TxCur) : State :=
  { s with txbuf := encodeFrame type seq ack payload, txCur := cur }

/-- The local proposal an LCTRL frame carries: `BE16(LOCAL_PKT) ++ [LOCAL_WIN]` (R173). -/
def localProposal (s : State) : List Byte := lctrlPayload s.localPkt s.localWin

/-- The slot of the oldest outstanding frame among `ks` that asks for transmission (R212). -/
def nextToSend (s : State) : List Nat → Option Nat
  | [] => none
  | k :: ks => if (swAt s (outIndex s k)).txreq then some (outIndex s k) else nextToSend s ks

/-- Load the DATA frame of slot `i` (R212). -/
def loadData (s : State) (i : Nat) : State :=
  let slot := swAt s i
  modifySw (loadFrame s 0x01 slot.seq (ackNumber s) (swPayload s i) (.data i slot.seq)) i
    (fun slot => { slot with txreq := false })

/-- `TX_KICK()` (R212): FIN, then LCTRL, then ACK or NACK, then the oldest DATA frame that asks; no pre-emption. -/
def txKick (s : State) : State :=
  if 0 < s.txbuf.length then s
  else if s.phase = .closed ∧ s.finReq = true then
    { loadFrame s 0x04 (lctrlFlags true s.frozen) 0x00 (localProposal s) .fin with finReq := false }
  else if s.phase.live = true ∧ s.lctrlReq = true then
    { loadFrame s 0x04 (lctrlFlags false s.frozen) 0x00 (localProposal s) .lctrl with lctrlReq := false }
  else if s.phase = .opened ∧ s.ackReq = .ack then
    { loadFrame s 0x02 0x00 (ackNumber s) [] .ack with ackReq := .none }
  else if s.phase = .opened ∧ s.ackReq = .nack then
    { loadFrame s 0x03 0x00 (ackNumber s) [] .ack with ackReq := .none }
  else if s.phase = .opened then
    match nextToSend s (List.range (nOut s)) with
    | none => s
    | some i => loadData s i
  else s

/-! ### The closing procedures -/

/-- The four closing procedures of every step, in R211's order. -/
def closing (s : State) : State := txKick (drain (pullCheck (drain s)))

/-! ### The handlers of the link and platform events -/

/-- `TX_DONE()` (R215). -/
def txDone (s : State) : State :=
  match s.txCur with
  | .data i q =>
    let s1 :=
      if (swAt s i).st = .sent ∧ (swAt s i).seq = q ∧ (swAt s i).txreq = false then
        modifySw s i (fun slot => { slot with st := .ackPending })
      else s
    { s1 with txCur := .none }
  | .none => { s with txCur := .none }
  | .fin => { s with txCur := .none }
  | .lctrl => { s with txCur := .none }
  | .ack => { s with txCur := .none }

/-- `TX_BYTE` (R214) with head byte `b` and the bytes `rest` behind it. -/
def onTxByte (s : State) (b : Byte) (rest : List Byte) : State :=
  let s1 := emitWire { s with txbuf := rest } b
  if rest.isEmpty then txDone s1 else s1

/-- The cause of a link fault kind; none for the reserved kinds 0, 1, 6, 7 (R218). -/
def faultCause (kind : BitVec 3) : Option DeadCause :=
  match kind.toNat with
  | 2 => some .rxErr
  | 3 => some .rxEos
  | 4 => some .txErr
  | 5 => some .txEos
  | _ => none

/-- `LINK_FAULT(kind)` (R218). -/
def onLinkFault (s : State) (kind : BitVec 3) : State :=
  match faultCause kind with
  | none => s
  | some cause =>
    if s.phase.live then fatal s cause 0
    else if s.phase = .closed then { s with txbuf := [], txCur := .none, finReq := false }
    else s

/-- `TICK` (R252). -/
def onTick (s : State) : State := pullTick (senderTick (lctrlTick { s with now := s.now + 1 }))

/-- A command that is rejected on port T: `emit RESP_T(BADCMD, 0, 0)` (R99, R195). -/
def badCmdT (s : State) : State := emitT s .badCmd 0 0

/-- A command that is rejected on port R: `emit RESP_R(BADCMD, empty)` (R99, R195). -/
def badCmdR (s : State) : State := emitR s .badCmd []

end Sys2Proof.Machine
end

