-- ==== Sys2Proof/Machine/Frames.lean ====
section
/-! DEFINITION. The meanings of the received frames: what `DISPATCH` (R117) does with a checked frame of each type. -/

namespace Sys2Proof.Machine

/-- A DATA frame (R117): the acknowledgment number, then the payload; outside phase OPEN it is dropped (R179). -/
def execData (seq ack : Seq) (payload : List Byte) (s : State) : Host.Outcome State Fault Refusal :=
  if s.phase = .opened then .next (onFrame (onAck s ack) seq payload) else .next (drop s .seq)

/-- An ACK frame (R117, R133). -/
def execAck (ackNo : Seq) (s : State) : Host.Outcome State Fault Refusal :=
  if s.phase = .opened then .next (onAck s ackNo) else .next (drop s .seq)

/-- A NACK frame (R117, R134). -/
def execNack (ackNo : Seq) (s : State) : Host.Outcome State Fault Refusal :=
  if s.phase = .opened then .next (onNack s ackNo) else .next (drop s .seq)

/-- An LCTRL frame with flag FIN clear (R174). -/
def execLctrl (rsp : Bool) (pkt : BitVec 16) (win : Byte) (s : State) : Host.Outcome State Fault Refusal :=
  .next (onLctrl s rsp pkt win)

/-- An LCTRL frame with flag FIN set (R174, R178): `DO_CLOSE(2)`; its `RSP`, `pkt` and `win` are ignored. -/
def execLctrlFin (_rsp : Bool) (_pkt : BitVec 16) (_win : Byte) (s : State) : Host.Outcome State Fault Refusal :=
  .next (doClose s .peerFin)

end Sys2Proof.Machine
end

