-- ==== Sys2Proof/Machine/Operands.lean ====
section
/-! DEFINITION. The operand space of `RDCSR` and `WRCSR`: the control and status registers, their indices, classes,
values and legal ranges (R36 to R39). -/

namespace Sys2Proof.Machine

/-- The register of an index; none for the reserved indices 0x1B to 0xFF (R37). -/
def csrOfIndex (idx : Byte) : Option Csr :=
  match idx.toNat with
  | 0x00 => some .id
  | 0x01 => some .cap
  | 0x02 => some .cap2
  | 0x03 => some .state
  | 0x04 => some .localPkt
  | 0x05 => some .localWin
  | 0x06 => some .baud
  | 0x07 => some .effPkt
  | 0x08 => some .effWin
  | 0x09 => some .rtoInit
  | 0x0A => some .rtoMax
  | 0x0B => some .retryMax
  | 0x0C => some .lctrlPeriod
  | 0x0D => some .now
  | 0x0E => some .sndUna
  | 0x0F => some .sndNext
  | 0x10 => some .rcvExp
  | 0x11 => some .winCount
  | 0x12 => some .appCount
  | 0x13 => some .irqStatus
  | 0x14 => some .irqEnable
  | 0x15 => some .deadCause
  | 0x16 => some .deadInfo
  | 0x17 => some .dropFcs
  | 0x18 => some .dropFormat
  | 0x19 => some .dropOversize
  | 0x1A => some .dropSeq
  | _ => none

/-- The access class of each register (R37). -/
def csrClass : Csr → CsrClass
  | .localPkt => .rwi
  | .localWin => .rwi
  | .baud => .rwi
  | .rtoInit => .rwi
  | .rtoMax => .rwi
  | .retryMax => .rwi
  | .lctrlPeriod => .rwi
  | .irqStatus => .w1c
  | .irqEnable => .rw
  | .id => .ro
  | .cap => .ro
  | .cap2 => .ro
  | .state => .ro
  | .effPkt => .ro
  | .effWin => .ro
  | .now => .ro
  | .sndUna => .ro
  | .sndNext => .ro
  | .rcvExp => .ro
  | .winCount => .ro
  | .appCount => .ro
  | .deadCause => .ro
  | .deadInfo => .ro
  | .dropFcs => .ro
  | .dropFormat => .ro
  | .dropOversize => .ro
  | .dropSeq => .ro

/-- The `STATE` register: 2:0 `PHASE`, 3 `FROZEN`, 5:4 `CLOSE_CAUSE`, 6 `LINK_RELEASED`, 7 `PULL_PEND` (R37). -/
def stateWord (s : State) : BitVec 32 :=
  0#24 ++ BitVec.ofBool s.pullPend ++ BitVec.ofBool (linkReleased s) ++ s.closeCause.code ++
    BitVec.ofBool s.frozen ++ s.phase.code

/-- The 32-bit value of each register, zero-extended (R36, R37, R39). -/
def csrValue (s : State) : Csr → BitVec 32
  | .id => 0x534C4150
  | .cap => 0#8 ++ BitVec.ofNat 16 s.build.pMax ++ BitVec.ofNat 8 s.build.wMax
  | .cap2 => BitVec.ofNat 32 s.build.appCap
  | .state => stateWord s
  | .localPkt => s.localPkt.setWidth 32
  | .localWin => s.localWin.setWidth 32
  | .baud => s.baud
  | .effPkt => s.effPkt.setWidth 32
  | .effWin => s.effWin.setWidth 32
  | .rtoInit => s.rtoInit
  | .rtoMax => s.rtoMax
  | .retryMax => s.retryMax.setWidth 32
  | .lctrlPeriod => s.lctrlPeriod
  | .now => s.now
  | .sndUna => s.sndUna.setWidth 32
  | .sndNext => s.sndNext.setWidth 32
  | .rcvExp => s.rcvExp.setWidth 32
  | .winCount => BitVec.ofNat 32 (nOut s)
  | .appCount => BitVec.ofNat 32 s.app.length
  | .irqStatus => s.irqStatus.setWidth 32
  | .irqEnable => s.irqEnable.setWidth 32
  | .deadCause => s.deadCause.code.setWidth 32
  | .deadInfo => s.deadInfo.setWidth 32
  | .dropFcs => s.dropFcs.setWidth 32
  | .dropFormat => s.dropFormat.setWidth 32
  | .dropOversize => s.dropOversize.setWidth 32
  | .dropSeq => s.dropSeq.setWidth 32

/-- A value is in the legal range of an RWI register; the test is on all 32 bits (R37, R38). A register of another
class has no such range. -/
def csrLegal (s : State) (c : Csr) (v : BitVec 32) : Bool :=
  match c with
  | .localPkt => 1 ≤ v.toNat && v.toNat ≤ s.build.pMax
  | .localWin => 1 ≤ v.toNat && v.toNat ≤ s.build.wMax
  | .baud => true
  | .rtoInit => 1 ≤ v.toNat && v.toNat ≤ 2 ^ 31 - 1
  | .rtoMax => 1 ≤ v.toNat && v.toNat ≤ 2 ^ 31 - 1
  | .retryMax => v.toNat ≤ 255
  | .lctrlPeriod => 1 ≤ v.toNat && v.toNat ≤ 2 ^ 31 - 1
  | _ => false

/-- `register <- v` for the writable registers (R38); `IRQ_STATUS` is write-one-to-clear, `IRQ_ENABLE` takes bits
4:0. A read-only register is never written. -/
def csrStore (s : State) (c : Csr) (v : BitVec 32) : State :=
  match c with
  | .localPkt => { s with localPkt := v.setWidth 16 }
  | .localWin => { s with localWin := v.setWidth 8 }
  | .baud => { s with baud := v }
  | .rtoInit => { s with rtoInit := v }
  | .rtoMax => { s with rtoMax := v }
  | .retryMax => { s with retryMax := v.setWidth 8 }
  | .lctrlPeriod => { s with lctrlPeriod := v }
  | .irqStatus => { s with irqStatus := s.irqStatus &&& ~~~ v.setWidth 5 }
  | .irqEnable => { s with irqEnable := v.setWidth 5 }
  | _ => s

/-- `RDCSR`'s procedure: the status and the value (R36, R39, R193). -/
def csrRead (s : State) (idx : Byte) : Status × BitVec 32 :=
  match csrOfIndex idx with
  | none => (.badArg, 0)
  | some c => (.ok, csrValue s c)

/-- `WRCSR`'s procedure (R38): the status and the state it leaves. -/
def csrWrite (s : State) (idx : Byte) (v : BitVec 32) : Status × State :=
  match csrOfIndex idx with
  | none => (.badArg, s)
  | some c =>
    match csrClass c with
    | .ro => (.badArg, s)
    | .rwi =>
      if s.phase ≠ .idle then (.locked, s)
      else if csrLegal s c v then (.ok, csrStore s c v)
      else (.badArg, s)
    | .rw => (.ok, csrStore s c v)
    | .w1c => (.ok, csrStore s c v)

end Sys2Proof.Machine
end

