-- ==== Sys2Proof/Machine/Stream.lean ====
section
/-! DEFINITION. The meanings of the eight host commands (spec/44_stream_host.md, `SCHED_LCTRL` of
spec/43_linkcontrol.md R171, `PULL` of spec/42_reassembler.md R156). A meaning is the command's own effect and its
response; the closing procedures of its step are `closing` (R211). -/

namespace Sys2Proof.Machine

/-- `NOP` (R186). -/
def execNop (s : State) : Host.Outcome State Fault Refusal := .next (emitT s .ok 0 0)

/-- `START` in phase IDLE (R187). -/
def startStream (s : State) : State :=
  { s with phase := .negotiating, rxEn := true, lctrlReq := true, lctrlDeadline := s.now + s.lctrlPeriod }

/-- `START` (R187). -/
def execStart (s : State) : Host.Outcome State Fault Refusal :=
  match s.phase with
  | .idle => .next (emitT (startStream s) .ok 0 0)
  | .negotiating => .next (emitT s .ok 0 0)
  | .opened => .next (emitT s .ok 0 0)
  | .closed => .next (emitT s .closed 0 0)
  | .dead => .next (emitT s .dead 0 0)

/-- `CLOSE` in phase IDLE: no FIN, the stream was never started (R188). -/
def closeIdle (s : State) : State :=
  setIrq { s with phase := .closed, closeCause := .localClose } .closed

/-- `CLOSE` (R188). -/
def execClose (s : State) : Host.Outcome State Fault Refusal :=
  match s.phase with
  | .idle => .next (emitT (closeIdle s) .ok 0 0)
  | .negotiating => .next (emitT (doClose s .localClose) .ok 0 0)
  | .opened => .next (emitT (doClose s .localClose) .ok 0 0)
  | .closed => .next (emitT s .ok 0 0)
  | .dead => .next (emitT s .ok 0 0)

/-- `SCHED_LCTRL` (R171). -/
def execSchedLctrl (s : State) : Host.Outcome State Fault Refusal :=
  match s.phase with
  | .idle => .next (emitT s .ok 0 0)
  | .negotiating => .next (emitT { s with lctrlReq := true } .ok 0 0)
  | .opened => .next (emitT { s with lctrlReq := true } .ok 0 0)
  | .closed => .next (emitT s .closed 0 0)
  | .dead => .next (emitT s .dead 0 0)

/-- The loop of `PUSH` (R191): the state it leaves and the number of bytes accepted. Each round makes one more frame
outstanding, so `EFF_WIN` rounds are enough for the loop to end by its own test (log entry 13). -/
def pushLoop : Nat → State → List Byte → State × Nat
  | 0, s, _ => (s, 0)
  | fuel + 1, s, buf =>
    if 0 < buf.length ∧ nOut s < s.effWin.toNat then
      let c := min s.effPkt.toNat buf.length
      let r := pushLoop fuel (send s (buf.take c)) (buf.drop c)
      (r.1, r.2 + c)
    else (s, 0)

/-- `PUSH` of the bytes `buf` in phase OPEN (R191). -/
def pushOpen (s : State) (buf : List Byte) : State × Nat := pushLoop s.effWin.toNat s buf

/-- `PUSH` (R191). -/
def execPush (buf : List Byte) (s : State) : Host.Outcome State Fault Refusal :=
  match s.phase with
  | .idle => .next (emitT s .ok 0 0)
  | .negotiating => .next (emitT s .ok 0 0)
  | .opened => .next (emitT (pushOpen s buf).1 .ok (BitVec.ofNat 16 (pushOpen s buf).2) 0)
  | .closed => .next (emitT s .closed 0 0)
  | .dead => .next (emitT s .dead 0 0)

/-- `PULL` (R156); its response comes from `PULL_CHECK`, in this step or a later one. -/
def execPull (maxLen : BitVec 16) (timeout : Ticks) (s : State) : Host.Outcome State Fault Refusal :=
  .next (pullCommand s maxLen timeout)

/-- `RDCSR` (R193). -/
def execRdcsr (idx : Byte) (s : State) : Host.Outcome State Fault Refusal :=
  .next (emitT s (csrRead s idx).1 0 (csrRead s idx).2)

/-- `WRCSR` (R194). -/
def execWrcsr (idx : Byte) (v : BitVec 32) (s : State) : Host.Outcome State Fault Refusal :=
  .next (emitT (csrWrite s idx v).2 (csrWrite s idx v).1 0 0)

end Sys2Proof.Machine
end

