-- ==== Sys2Proof/Machine/Dispatch.lean ====
section
/-! DEFINITION. The dispatch of an instruction to its meaning, one arm per row of spec/opcode_table.json. -/

namespace Sys2Proof.Machine

/-- The effect of an instruction of its own (R117, R171, R186 to R194, R156). -/
def exec (i : Instr) (s : State) : Host.Outcome State Fault Refusal :=
  match i with
  | .nop => Sys2Proof.Machine.execNop s
  | .start => Sys2Proof.Machine.execStart s
  | .close => Sys2Proof.Machine.execClose s
  | .schedLctrl => Sys2Proof.Machine.execSchedLctrl s
  | .push buf => Sys2Proof.Machine.execPush buf s
  | .pull maxLen timeout => Sys2Proof.Machine.execPull maxLen timeout s
  | .rdcsr idx => Sys2Proof.Machine.execRdcsr idx s
  | .wrcsr idx v => Sys2Proof.Machine.execWrcsr idx v s
  | .data seq ack payload => Sys2Proof.Machine.execData seq ack payload s
  | .ack ackNo => Sys2Proof.Machine.execAck ackNo s
  | .nack ackNo => Sys2Proof.Machine.execNack ackNo s
  | .lctrl rsp pkt win => Sys2Proof.Machine.execLctrl rsp pkt win s
  | .lctrlFin rsp pkt win => Sys2Proof.Machine.execLctrlFin rsp pkt win s

end Sys2Proof.Machine
end

