-- ==== Sys2Proof/Machine/Fetch.lean ====
section
/-! DEFINITION. How the machine comes to an instruction: the event at the head of the offered ones, when it can be
taken (R210), `RX_DECODE` (R115) and `FRAME_CHECK` (R116) for received bytes, the decoding of command words, and
what a step does around the instruction (R211, R216). -/

namespace Sys2Proof.Machine

/-- What an event comes to before any instruction runs. -/
inductive Fetched where
  /-- The event cannot be taken: it is passed over and the machine does not change (R210, log entry 6). -/
  | notTaken
  /-- The reset event: its whole effect is `s`; no closing procedure runs (R265). -/
  | wasReset (s : State)
  /-- The event ran no instruction; its handler is complete and left `s`. -/
  | handled (s : State)
  /-- The command on port T or R is `i`; it runs on `s`. -/
  | command (i : Instr) (s : State)
  /-- The received flag completed the checked frame `i`; it is dispatched on `s`. -/
  | received (i : Instr) (s : State)
deriving DecidableEq, Repr

/-! ### The receive pump (R115, R216, R219) -/

/-- `RX_REENABLE()` (R219). -/
def rxReenable (s : State) : State := if s.phase.live then { s with rxEn := true } else s

/-- The end of `RX_BYTE` (R216). -/
def endRxByte (s : State) : State := rxReenable s

/-- The end of `RX_DECODE` on a flag byte (R115): INFRAME with an empty buffer. -/
def openFrame (s : State) : State := { s with rxs := .inframe, rxlen := 0, rxEsc := false }

/-- The end of the `RX_BYTE` step's handler after a flag byte. -/
def finishFlag (s : State) : State := endRxByte (openFrame s)

/-- `RX_DECODE(b)` for a byte that is not a flag (R115). -/
def rxDecodeByte (s : State) (b : Byte) : State :=
  if s.rxs = .hunt then s
  else if s.rxEsc = false ∧ b = escByte then { s with rxEsc := true }
  else
    let v := if s.rxEsc then b ^^^ 0x20#8 else b
    let s1 := { s with rxEsc := false }
    if s1.rxlen = s1.build.rxCap then
      { drop s1 .oversize with rxs := .hunt, rxlen := 0, rxEsc := false }
    else { s1 with rxbuf := s1.rxbuf.write s1.rxlen v, rxlen := s1.rxlen + 1 }

/-- The size limit of `FRAME_CHECK` step 6 (R116). -/
def sizeLimit (s : State) : Nat := if s.frozen then s.effPkt.toNat else s.localPkt.toNat

/-- The counter a rejected frame body is dropped with (R116 steps 1 to 5). -/
def rejectCounter : DecodeReject → DropCounter
  | .fcsMismatch => .fcs
  | .reservedOpcode => .format
  | .wrongPort => .format
  | .missingData => .format
  | .tooShort => .format
  | .unknownType => .format
  | .lenMismatch => .format
  | .ackNackPayload => .format
  | .lctrlLength => .format

/-- `FRAME_CHECK` step 6 (R116): a DATA frame above the size limit. -/
def overLimit (s : State) : Instr → Bool
  | .data _ _ payload => sizeLimit s < payload.length
  | _ => false

/-- `FRAME_CHECK(F)` (R116): the counter the frame is dropped with, or the checked frame. -/
def frameCheck (s : State) (F : List Byte) : Except DropCounter Instr :=
  match decodeFrame F with
  | .error r => .error (rejectCounter r)
  | .ok i =>
    if i.wellFormed = false then .error .format
    else if overLimit s i then .error .oversize
    else .ok i

/-- `RX_BYTE` with a flag byte, up to the dispatch (R115); `s` already has `RX_EN` cleared. -/
def rxFlag (s : State) : Fetched :=
  if s.rxs = .inframe then
    if s.rxEsc then .handled (finishFlag (drop s .format))
    else if 0 < s.rxlen then
      match frameCheck s (rxBody s) with
      | .error c => .handled (finishFlag (drop s c))
      | .ok i => .received i s
    else .handled (finishFlag s)
  else .handled (finishFlag s)

/-- `RX_BYTE(b)` up to the dispatch of a frame (R216). -/
def fetchRxByte (s : State) (b : Byte) : Fetched :=
  let s0 := { s with rxEn := false }
  if b = flagByte then rxFlag s0 else .handled (endRxByte (rxDecodeByte s0 b))

/-! ### Command words -/

/-- A command word on port T (R95, R99). A `PUSH` with data bytes missing is no event yet (log entry 9). -/
def fetchPortT (s : State) (w : Word64) (offered : List Byte) : Fetched :=
  match decodePortT w offered with
  | .ok i => .command i s
  | .error .missingData => .notTaken
  | .error _ => .handled (badCmdT s)

/-- A command word on port R (R95, R99), which is not ready while a `PULL` is pending. -/
def fetchPortR (s : State) (w : Word64) : Fetched :=
  if s.pullPend then .notTaken
  else
    match decodePortR w with
    | .ok i => .command i s
    | .error _ => .handled (badCmdR s)

/-! ### The event -/

/-- What the event `e` comes to in state `s` (R210). -/
def fetch (e : Event) (s : State) : Fetched :=
  match e with
  | .cmdT w offered => fetchPortT s w offered
  | .cmdR w => fetchPortR s w
  | .rxByte b => if s.rxEn then fetchRxByte s b else .notTaken
  | .txByte =>
    match s.txbuf with
    | [] => .notTaken
    | b :: rest => .handled (onTxByte s b rest)
  | .linkFault kind => .handled (onLinkFault s kind)
  | .tick => .handled (onTick s)
  | .reset => .wasReset (resetEvent s)

/-- The state in which the next event is met: it is no longer among the offered ones, and nothing is emitted yet. -/
def beginStep (s : State) (rest : List Event) : State := { s with events := rest, out := {} }

/-- The rest of a command's step after its instruction ran (R211). -/
def endCommand : Host.Outcome State Fault Refusal → Host.Outcome State Fault Refusal
  | .next s => .next (closing s)
  | .fault f => .fault f
  | .refused r => .refused r

/-- The rest of an `RX_BYTE` step after the frame it completed was dispatched (R115, R216, R211). -/
def endReceived : Host.Outcome State Fault Refusal → Host.Outcome State Fault Refusal
  | .next s => .next (closing (finishFlag s))
  | .fault f => .fault f
  | .refused r => .refused r

/-! ### Placing an instruction where the machine fetches next -/

/-- Offer a command word next. Port R is ready only while no `PULL` is pending. -/
def offerCommand (s : State) : Encoded → State
  | .portT w data => { s with events := .cmdT w data :: s.events }
  | .portR w => { s with pullPend := false, events := .cmdR w :: s.events }
  | .frame _ => s

/-- Put a received frame body into the decoder and offer the closing flag next. Bytes are taken only in a live
phase with `RX_EN` set (R216), so a stream that is not live is put in NEGOTIATING, as `START` leaves it. -/
def offerFrame (s : State) (body : List Byte) : State :=
  { s with
    phase := if s.phase.live then s.phase else .negotiating, rxEn := true, rxs := .inframe, rxEsc := false,
    rxbuf := s.rxbuf.writeRun 0 body, rxlen := body.length, events := .rxByte flagByte :: s.events }

/-- Place the instruction of a row of spec/opcode_table.json where the next step fetches it (log entries 3, 4). -/
def placeTableWord (s : State) (nbits w : Nat) : State :=
  match tableEncoded nbits w with
  | none => s
  | some (.frame body) => offerFrame s body
  | some e => offerCommand s e

end Sys2Proof.Machine
end

