-- ==== Sys2Proof/Machine/Step.lean ====
section
/-! DEFINITION. One step of the arbiter (R210, R211). -/

namespace Sys2Proof.Machine

/-- The state `s` with the instruction of a row of spec/opcode_table.json placed where `step` fetches next. -/
def State.withFetchWord (s : State) (nbits w : Nat) : State := placeTableWord s nbits w

/-- Run what an event came to: the instruction by `exec`, then the closing procedures; `s0` is the state when the
event could not be taken. -/
def runFetched (s0 : State) (f : Fetched) : Host.Outcome State Fault Refusal :=
  match f with
  | .notTaken => .next s0
  | .wasReset s => .next s
  | .handled s => .next (closing s)
  | .command i s => endCommand (exec i s)
  | .received i s => endReceived (exec i s)

/-- One step: take the next offered event. With no event offered nothing changes (log entry 7). -/
def step (s : State) : Host.Outcome State Fault Refusal :=
  match s.events with
  | [] => .next s
  | e :: rest => runFetched (beginStep s rest) (fetch e (beginStep s rest))

end Sys2Proof.Machine
end

