-- ==== Sys2Proof/Safety.lean ====
section
/-! DEFINITION. What holds in every state of a run (spec/10_state.md R53, with R24, R25, R37, R40, R45, R47, R50,
R131, R214, R238), in the terms the statements use. Each is a conjunction of bounded, decidable conditions. -/

namespace Sys2Proof.Machine

/-- The lifecycle registers agree: `RX_EN` exactly in the live phases (R53 (8)); OPEN implies `FROZEN` (R53 (9));
`FROZEN` only in OPEN, CLOSED, DEAD (R25); `FIN_REQ` only in CLOSED (R53 (10)); `DEAD_CAUSE` non-zero exactly in DEAD,
`DEAD_INFO` 0 without a cause (R238); `CLOSE_CAUSE` non-zero exactly in CLOSED (R25); in phase DEAD `TXBUF` is empty
(R214, R237). -/
abbrev Lifecycle (s : State) : Prop :=
  (s.rxEn = true ↔ s.phase = .negotiating ∨ s.phase = .opened) ∧
  (s.phase = .opened → s.frozen = true) ∧
  (s.frozen = true → s.phase = .opened ∨ s.phase = .closed ∨ s.phase = .dead) ∧
  (s.finReq = true → s.phase = .closed) ∧
  (s.phase = .dead ↔ s.deadCause ≠ .none) ∧
  (s.deadCause = .none → s.deadInfo = 0) ∧
  (s.phase = .closed ↔ s.closeCause ≠ .notClosed) ∧
  (s.phase = .dead → s.txbuf = [])

/-- A tick register in its legal range 1 .. 2^31 - 1 (R37). -/
abbrev LegalTicks (v : Ticks) : Prop := 1 ≤ v.toNat ∧ v.toNat ≤ 2 ^ 31 - 1

/-- The parameters are in their ranges: the build (R7), the run-time registers (R37), and the effective values, which
are 0 until frozen and then from 1 to the build's maxima (R37, R40). -/
abbrev Parameters (s : State) : Prop :=
  s.build.ok = true ∧
  (1 ≤ s.localPkt.toNat ∧ s.localPkt.toNat ≤ s.build.pMax) ∧
  (1 ≤ s.localWin.toNat ∧ s.localWin.toNat ≤ s.build.wMax) ∧
  LegalTicks s.rtoInit ∧ LegalTicks s.rtoMax ∧ LegalTicks s.lctrlPeriod ∧
  (s.frozen = true → (1 ≤ s.effPkt.toNat ∧ s.effPkt.toNat ≤ s.build.pMax) ∧
    (1 ≤ s.effWin.toNat ∧ s.effWin.toNat ≤ s.build.wMax)) ∧
  (s.frozen = false → s.effPkt = 0 ∧ s.effWin = 0)

/-- Every byte of a slot's payload has been written. -/
abbrev Written (m : Memory) (len : BitVec 16) : Prop := ∀ o < len.toNat, (m.read o).isSome = true

/-- The sender file (R45, R53 (1) and (2)): `W_MAX` slots; the window bound; the `k`-th outstanding frame is in its
slot, not FREE, with its sequence number and 1 to `EFF_PKT` written bytes; every other slot is FREE. -/
abbrev SenderWindow (s : State) : Prop :=
  s.sw.length = s.build.wMax ∧
  nOut s ≤ s.effWin.toNat ∧
  (∀ k < nOut s,
    (swAt s (outIndex s k)).st ≠ .free ∧ (swAt s (outIndex s k)).seq = s.sndUna + BitVec.ofNat 8 k ∧
    1 ≤ (swAt s (outIndex s k)).len.toNat ∧ (swAt s (outIndex s k)).len.toNat ≤ s.effPkt.toNat ∧
    Written (swAt s (outIndex s k)).data (swAt s (outIndex s k)).len) ∧
  (∀ i < s.sw.length, (∀ k < nOut s, outIndex s k ≠ i) → (swAt s i).st = .free)

/-- The transmitter (R50, R53 (6), R131): `TXBUF` within its capacity; `TX_CUR` is NONE exactly when `TXBUF` is
empty; a slot that asks for transmission is SENT; in phase OPEN a SENT slot asks for transmission or is the frame in
`TXBUF`. -/
abbrev Transmitter (s : State) : Prop :=
  s.txbuf.length ≤ 2 * (s.build.pMax + 7) + 2 ∧
  (s.txCur = .none ↔ s.txbuf = []) ∧
  (∀ i < s.sw.length, (swAt s i).txreq = true → (swAt s i).st = .sent) ∧
  (s.phase = .opened → ∀ i < s.sw.length, (swAt s i).st = .sent →
    (swAt s i).txreq = true ∨ s.txCur = .data i (swAt s i).seq)

/-- The reassembly file (R47, R53 (3)): `W_MAX` slots; nothing held before the freeze; in phase OPEN every valid slot
is at its index, inside the acceptance window, with at most `EFF_PKT` written bytes; between steps the head slot is
empty, or holds the expected frame, which does not fit into `APP`. -/
abbrev Reassembly (s : State) : Prop :=
  s.rb.length = s.build.wMax ∧
  (s.frozen = false → ∀ j < s.rb.length, (rbAt s j).valid = false) ∧
  (s.phase = .opened → ∀ j < s.rb.length, (rbAt s j).valid = true →
    slotIndex s (rbAt s j).seq = j ∧ ((rbAt s j).seq - s.rcvExp).toNat < s.effWin.toNat ∧
    (rbAt s j).len.toNat ≤ s.effPkt.toNat ∧ Written (rbAt s j).data (rbAt s j).len) ∧
  (s.phase = .opened → (rbAt s (slotIndex s s.rcvExp)).valid = true →
    (rbAt s (slotIndex s s.rcvExp)).seq = s.rcvExp ∧
      s.build.appCap - s.app.length < (rbAt s (slotIndex s s.rcvExp)).len.toNat)

/-- The application and decoder buffers within their capacities (R53 (4) and (5)); a `PULL` is pending between steps
only if nothing lets it complete (R157), and then its length is not 0 (R33). -/
abbrev Buffers (s : State) : Prop :=
  s.app.length ≤ s.build.appCap ∧
  s.rxlen ≤ s.build.pMax + 7 ∧
  (s.pullPend = true → s.app = [] ∧ s.phase ≠ .closed ∧ s.phase ≠ .dead ∧ s.pullNowait = false ∧ s.pullMax ≠ 0)

/-- A byte store in canonical form with no cell at or above `cap`. -/
abbrev StoreOk (m : Memory) (cap : Nat) : Prop := m.wf = true ∧ ∀ c ∈ m, c.1 < cap

/-- Every byte store is in canonical form and inside its capacity (R60). -/
abbrev Stores (s : State) : Prop :=
  StoreOk s.rxbuf (s.build.pMax + 7) ∧ (∀ w ∈ s.sw, StoreOk w.data s.build.pMax) ∧
    (∀ r ∈ s.rb, StoreOk r.data s.build.pMax)

/-- All of the above: what R53 summarises. -/
abbrev Invariants (s : State) : Prop :=
  Lifecycle s ∧ Parameters s ∧ SenderWindow s ∧ Transmitter s ∧ Reassembly s ∧ Buffers s ∧ Stores s

/-- At rest: running the closing procedures again would change nothing (R211). -/
abbrev AtRest (s : State) : Prop := closing s = s

/-- The next event offered is reset. -/
abbrev ResetOffered (s : State) : Prop := s.events.head? = some .reset

end Sys2Proof.Machine
end

