-- ==== Sys2Proof/Certificates/Slice0/Obligations.lean ====
section
/-! DEFINITION. The statements about SLAP-CORE for the provers, each formalising the rules of spec/ that
OBLIGATIONS.json names. -/

open Sys2Proof Sys2Proof.Machine

/-! ### Encodings -/

/-- Every well-formed operation, command or frame, is decoded from its encoding with every operand (R82 to R91, R95,
R97). -/
def Obligations.DecodeInvertsEncode : Prop :=
  ∀ i : Instr, i.wellFormed = true → decode (encode i) = .ok i

/-- Words and frame bodies written out from R82 to R97 stand for the operations the spec says. -/
def Obligations.WrittenOutWordsDecode : Prop :=
  decode (.portT 0x00FF123456789ABC []) = .ok .nop ∧
  decode (.portT 0x0100000000000000 []) = .ok .start ∧
  decode (.portT 0x0400000200000000 [0x41, 0x42]) = .ok (.push [0x41, 0x42]) ∧
  decode (.portR 0x0500000CFFFFFFFF) = .ok (.pull 12 0xFFFFFFFF) ∧
  decode (.portT 0x0600001B00000000 []) = .ok (.rdcsr 0x1B) ∧
  decode (.portT 0x0700000400000064 []) = .ok (.wrcsr 4 100) ∧
  decode (.frame [0x01, 0x00, 0xFF, 0x00, 0x01, 0x0B, 0x7D, 0x91]) = .ok (.data 0 255 [0x0B]) ∧
  decode (.frame [0x02, 0x00, 0x54, 0x00, 0x00, 0x7D, 0x39]) = .ok (.ack 84) ∧
  decode (.frame [0x03, 0x00, 0x04, 0x00, 0x00, 0xDA, 0xB1]) = .ok (.nack 4) ∧
  decode (.frame [0x04, 0x00, 0x00, 0x00, 0x03, 0x00, 0x64, 0x04, 0x71, 0xF4]) = .ok (.lctrl false 100 4) ∧
  decode (.frame [0x04, 0x03, 0x00, 0x00, 0x03, 0x00, 0x64, 0x04, 0x1F, 0x5C]) = .ok (.lctrlFin true 100 4)

/-- The fields the receiver ignores have no effect: `RSV` of every command word, both operands of opcodes 0x00 to
0x03, `ARG32` of `PUSH` and `RDCSR`, `ARG16[15:8]` of `RDCSR` and `WRCSR` (R95, R97), `SEQ` of an ACK or NACK frame,
`ACK` and `SEQ[7:2]` of an LCTRL frame (R85, R86). -/
def Obligations.IgnoredFieldsAreIgnored : Prop :=
  (∀ (w w' : Word64) (d : List Byte), opcOf w = opcOf w' → arg16Of w = arg16Of w' → arg32Of w = arg32Of w' →
    decodePortT w d = decodePortT w' d ∧ decodePortR w = decodePortR w') ∧
  (∀ (w w' : Word64) (d : List Byte), opcOf w = opcOf w' → (opcOf w).toNat < 4 →
    decodePortT w d = decodePortT w' d) ∧
  (∀ (w w' : Word64) (d : List Byte), opcOf w = 4#8 → opcOf w' = 4#8 → arg16Of w = arg16Of w' →
    decodePortT w d = decodePortT w' d) ∧
  (∀ (w w' : Word64) (d : List Byte), opcOf w = 6#8 → opcOf w' = 6#8 → idxOf w = idxOf w' →
    decodePortT w d = decodePortT w' d) ∧
  (∀ (w w' : Word64) (d : List Byte), opcOf w = 7#8 → opcOf w' = 7#8 → idxOf w = idxOf w' → arg32Of w = arg32Of w' →
    decodePortT w d = decodePortT w' d) ∧
  (∀ seq ack : Byte, decodeFrame (frameBody 2 seq ack []) = .ok (.ack ack)) ∧
  (∀ seq ack : Byte, decodeFrame (frameBody 3 seq ack []) = .ok (.nack ack)) ∧
  (∀ (seq ack : Byte) (pkt : BitVec 16) (win : Byte),
    decodeFrame (frameBody 4 seq ack (lctrlPayload pkt win))
      = .ok (if seq.getLsbD 1 then .lctrlFin (seq.getLsbD 0) pkt win else .lctrl (seq.getLsbD 0) pkt win))

/-- The integrity check (R111): the loop written out, its check values, and the residue property, by which the loop
over a whole body, integrity check included, leaves 0xF0B8. -/
def Obligations.CrcCheckValuesAndResidue : Prop :=
  (∀ l : List Byte, crc16 l =
    l.foldl (fun c b => (List.range 8).foldl
      (fun c _ => if c.getLsbD 0 then (c >>> 1) ^^^ 0x8408#16 else c >>> 1) (c ^^^ b.setWidth 16)) 0xFFFF#16
      ^^^ 0xFFFF#16) ∧
  (crc16 [] = 0 ∧ crc16 [0x00] = 0xF078 ∧ crc16 [0x01] = 0xE1F1 ∧ crc16 [0x41] = 0xA3F5 ∧ crc16 [0xFF] = 0xFF00 ∧
    crc16 [0x31, 0x32, 0x33, 0x34, 0x35, 0x36, 0x37, 0x38, 0x39] = 0x906E) ∧
  ∀ (type seq ack : Byte) (payload : List Byte),
    (frameBody type seq ack payload).foldl crcByte 0xFFFF#16 = 0xF0B8#16

/-- Stuffing (R92, R112): the two bytes that are escaped and what stands for them, every other byte being itself; no
flag byte in the result, at most twice as long, never shorter, and injective. -/
def Obligations.StuffingHidesFlags : Prop :=
  stuff [] = [] ∧
  (∀ (b : Byte) (l : List Byte), stuff (b :: l) =
    (if b = 0x7E#8 then [0x7D#8, 0x5E#8] else if b = 0x7D#8 then [0x7D#8, 0x5D#8] else [b]) ++ stuff l) ∧
  (∀ l : List Byte, 0x7E#8 ∉ stuff l ∧ l.length ≤ (stuff l).length ∧ (stuff l).length ≤ 2 * l.length) ∧
  (∀ l l' : List Byte, stuff l = stuff l' → l = l')

/-- The body of a frame (R82, R113): header, payload and integrity check, `LEN` high byte first, `FCS` low byte first.
The codec's round trip (R119): the bytes between the two flags of an encoded frame are the stuffed body; fed one by one
to a decoder that a flag has opened in any state, they rebuild the body and touch nothing else; the body carries the
same type, sequence number, acknowledgment number and payload, and passes steps 1 to 4 of `FRAME_CHECK`. -/
def Obligations.ReceiverRebuildsTheSentBody : Prop :=
  (∀ (type seq ack : Byte) (payload : List Byte),
    let covered := [type, seq, ack, BitVec.ofNat 8 (payload.length / 256), BitVec.ofNat 8 payload.length] ++ payload
    frameBody type seq ack payload =
      covered ++ [(crc16 covered).extractLsb' 0 8, (crc16 covered).extractLsb' 8 8]) ∧
  (∀ (s : State) (type seq ack : Byte) (payload : List Byte),
    s.build.ok = true → payload.length ≤ s.build.pMax → (1 ≤ type.toNat ∧ type.toNat ≤ 4) →
    ∃ mid, encodeFrame type seq ack payload = 0x7E#8 :: (mid ++ [0x7E#8]) ∧
      mid = stuff (frameBody type seq ack payload) ∧ 0x7E#8 ∉ mid ∧
      rxBody (mid.foldl rxDecodeByte (openFrame s)) = frameBody type seq ack payload ∧
      mid.foldl rxDecodeByte (openFrame s)
        = { openFrame s with
            rxbuf := (mid.foldl rxDecodeByte (openFrame s)).rxbuf, rxlen := payload.length + 7 } ∧
      byteAt (frameBody type seq ack payload) 0 = type ∧ byteAt (frameBody type seq ack payload) 1 = seq ∧
      byteAt (frameBody type seq ack payload) 2 = ack ∧
      ((frameBody type seq ack payload).drop 5).take payload.length = payload ∧
      (∀ r, decodeFrame (frameBody type seq ack payload) = .error r → r = .ackNackPayload ∨ r = .lctrlLength))

/-! ### The receive pump -/

/-- A received byte that is no flag. The step that takes it (R216) consumes the subscription, runs `RX_DECODE`, renews
the subscription in a live phase (R219), and then runs the closing procedures. `RX_DECODE` on it (R115): discarded in
HUNT; an escape byte is remembered; else the byte, un-escaped where an escape byte came before it, is appended; a body
longer than `RXCAP` is dropped. The body handed to `FRAME_CHECK` is the bytes so appended, in order. -/
def Obligations.DecoderTakesBytesOneByOne : Prop :=
  (∀ (s : State) (rest : List Event) (b : Byte),
    s.events = .rxByte b :: rest → s.rxEn = true → b ≠ 0x7E#8 →
    step s = .next (closing { rxDecodeByte { s with events := rest, out := {}, rxEn := false } b with
      rxEn := decide (s.phase = .negotiating ∨ s.phase = .opened) })) ∧
  (∀ (s : State) (b : Byte), b ≠ 0x7E#8 →
    (s.rxs = .hunt → rxDecodeByte s b = s) ∧
    (s.rxs = .inframe → s.rxEsc = false → b = 0x7D#8 → rxDecodeByte s b = { s with rxEsc := true }) ∧
    (s.rxs = .inframe → (s.rxEsc = true ∨ b ≠ 0x7D#8) → s.rxlen ≠ s.build.pMax + 7 →
      ∃ m, rxDecodeByte s b = { s with rxEsc := false, rxbuf := m, rxlen := s.rxlen + 1 } ∧
        m.read s.rxlen = some (if s.rxEsc then b ^^^ 0x20#8 else b) ∧
        ∀ o, o ≠ s.rxlen → m.read o = s.rxbuf.read o) ∧
    (s.rxs = .inframe → (s.rxEsc = true ∨ b ≠ 0x7D#8) → s.rxlen = s.build.pMax + 7 →
      rxDecodeByte s b = { s with
        dropOversize := BitVec.ofNat 16 (min (s.dropOversize.toNat + 1) 0xFFFF), rxs := .hunt, rxlen := 0,
        rxEsc := false })) ∧
  (∀ s : State, (rxBody s).length = s.rxlen ∧
    ∀ o < s.rxlen, ∀ b, s.rxbuf.read o = some b → byteAt (rxBody s) o = b)

/-- `FRAME_CHECK` (R116): the checks in their order, the counter each failure is dropped with, and the frame that
passes them all. -/
def Obligations.FrameCheckInOrder : Prop :=
  ∀ (s : State) (F : List Byte),
    let n := F.length
    let type := byteAt F 0
    let seq := byteAt F 1
    let L := 256 * (byteAt F 3).toNat + (byteAt F 4).toNat
    let pkt := 256 * (byteAt F 5).toNat + (byteAt F 6).toNat
    let win := byteAt F 7
    frameCheck s F =
      if n < 7 then .error .format
      else if (crc16 (F.take (n - 2))).toNat ≠ (byteAt F (n - 2)).toNat + 256 * (byteAt F (n - 1)).toNat then
        .error .fcs
      else if type.toNat = 0 ∨ 4 < type.toNat then .error .format
      else if L ≠ n - 7 then .error .format
      else if (type = 2#8 ∨ type = 3#8) ∧ L ≠ 0 then .error .format
      else if type = 4#8 ∧ L ≠ 3 then .error .format
      else if type = 4#8 ∧ seq.getLsbD 1 = false ∧ (pkt = 0 ∨ win = 0#8) then .error .format
      else if type = 1#8 ∧ (if s.frozen then s.effPkt.toNat else s.localPkt.toNat) < L then .error .oversize
      else if type = 1#8 then .ok (.data seq (byteAt F 2) ((F.drop 5).take L))
      else if type = 2#8 then .ok (.ack (byteAt F 2))
      else if type = 3#8 then .ok (.nack (byteAt F 2))
      else if seq.getLsbD 1 then .ok (.lctrlFin (seq.getLsbD 0) (BitVec.ofNat 16 pkt) win)
      else .ok (.lctrl (seq.getLsbD 0) (BitVec.ofNat 16 pkt) win)

/-- `DROP(counter)` (R118, R14): the counter is incremented, saturating, and nothing else changes. -/
def Obligations.DropCountsAndNothingElse : Prop :=
  ∀ s : State,
    drop s .fcs = { s with dropFcs := BitVec.ofNat 16 (min (s.dropFcs.toNat + 1) 0xFFFF) } ∧
    drop s .format = { s with dropFormat := BitVec.ofNat 16 (min (s.dropFormat.toNat + 1) 0xFFFF) } ∧
    drop s .oversize = { s with dropOversize := BitVec.ofNat 16 (min (s.dropOversize.toNat + 1) 0xFFFF) } ∧
    drop s .seq = { s with dropSeq := BitVec.ofNat 16 (min (s.dropSeq.toNat + 1) 0xFFFF) }

/-! ### Steps -/

/-- The closing procedures are `DRAIN`, `PULL_CHECK`, `DRAIN`, `TX_KICK`, in this order (R211). A step runs the
instruction its event decodes to, then the closing procedures (R210, R211): a command word on port T, a command word on
port R, and a received flag that completes a well-formed frame within the size limit (R116), which in addition re-opens
the decoder and renews the read subscription (R115, R216, R219). -/
def Obligations.StepRunsTheDecodedInstruction : Prop :=
  (∀ s : State, closing s = txKick (drain (pullCheck (drain s)))) ∧
  (∀ (s : State) (rest : List Event) (w : Word64) (d : List Byte) (i : Instr) (u : State),
    s.events = .cmdT w d :: rest → decode (.portT w d) = .ok i →
    exec i { s with events := rest, out := {} } = .next u → step s = .next (closing u)) ∧
  (∀ (s : State) (rest : List Event) (w : Word64) (i : Instr) (u : State),
    s.events = .cmdR w :: rest → s.pullPend = false → decode (.portR w) = .ok i →
    exec i { s with events := rest, out := {} } = .next u → step s = .next (closing u)) ∧
  (∀ (s : State) (rest : List Event) (i : Instr) (u : State),
    s.events = .rxByte 0x7E#8 :: rest → s.rxEn = true → s.rxs = .inframe → s.rxEsc = false →
    decode (.frame (rxBody s)) = .ok i → i.wellFormed = true →
    (∀ seq ack payload, i = .data seq ack payload →
      payload.length ≤ if s.frozen then s.effPkt.toNat else s.localPkt.toNat) →
    exec i { s with events := rest, out := {}, rxEn := false } = .next u →
    step s = .next (closing { u with
      rxs := .inframe, rxlen := 0, rxEsc := false,
      rxEn := if u.phase = .negotiating ∨ u.phase = .opened then true else u.rxEn }))

/-- A received flag that completes a frame body `FRAME_CHECK` rejects counts the drop and leaves the decoder open; so
does the abort sequence (R115, R116, R118). -/
def Obligations.RejectedFramesAreOnlyCounted : Prop :=
  ∀ (s : State) (rest : List Event) (c : DropCounter),
    s.events = .rxByte 0x7E#8 :: rest → s.rxEn = true → s.rxs = .inframe →
    (s.rxEsc = true ∧ c = .format ∨
      s.rxEsc = false ∧ 0 < s.rxlen ∧ frameCheck s (rxBody s) = .error c) →
    step s = .next (closing { drop s c with
      events := rest, out := {}, rxs := .inframe, rxlen := 0, rxEsc := false,
      rxEn := decide (s.phase = .negotiating ∨ s.phase = .opened) })

/-- A flag byte taken in any state leaves the decoder INFRAME with an empty buffer (R115, corner case 2). One taken in
HUNT, or after an empty frame, does nothing else (R115, corner cases 1 and 3, R94): no counter and no other state
changes before the closing procedures. -/
def Obligations.FlagAlwaysOpensAFrame : Prop :=
  (∀ (s t : State) (rest : List Event),
    s.events = .rxByte 0x7E#8 :: rest → s.rxEn = true → step s = .next t →
    t.rxs = .inframe ∧ t.rxlen = 0 ∧ t.rxEsc = false) ∧
  (∀ (s : State) (rest : List Event),
    s.events = .rxByte 0x7E#8 :: rest → s.rxEn = true →
    (s.rxs = .hunt ∨ s.rxs = .inframe ∧ s.rxEsc = false ∧ s.rxlen = 0) →
    step s = .next (closing { s with
      events := rest, out := {}, rxs := .inframe, rxlen := 0, rxEsc := false,
      rxEn := decide (s.phase = .negotiating ∨ s.phase = .opened) }))

/-- A reserved opcode, or `PULL` on port T, or anything but `PULL` on port R (R195): BADCMD and no other effect; the
closing procedures run. -/
def Obligations.ReservedCommandsAnswerBadCmd : Prop :=
  (∀ (s : State) (rest : List Event) (w : Word64) (d : List Byte),
    s.events = .cmdT w d :: rest → ((opcOf w).toNat = 5 ∨ 8 ≤ (opcOf w).toNat) →
    step s = .next (closing { s with events := rest, out := { respT := some ⟨.badCmd, 0, 0⟩ } })) ∧
  (∀ (s : State) (rest : List Event) (w : Word64),
    s.events = .cmdR w :: rest → s.pullPend = false → (opcOf w).toNat ≠ 5 →
    step s = .next (closing { s with events := rest, out := { respR := some ⟨.badCmd, []⟩ } }))

/-- An event whose condition is false is not taken and changes nothing (R210). That the offer is then passed over,
and that a step with nothing offered changes nothing, are the model's choices (log entries 6, 7 and 9). -/
def Obligations.EventsNotTakenChangeNothing : Prop :=
  (∀ s : State, s.events = [] → step s = .next s) ∧
  (∀ (s : State) (rest : List Event) (b : Byte), s.events = .rxByte b :: rest → s.rxEn = false →
    step s = .next { s with events := rest, out := {} }) ∧
  (∀ (s : State) (rest : List Event), s.events = .txByte :: rest → s.txbuf = [] →
    step s = .next { s with events := rest, out := {} }) ∧
  (∀ (s : State) (rest : List Event) (w : Word64), s.events = .cmdR w :: rest → s.pullPend = true →
    step s = .next { s with events := rest, out := {} }) ∧
  (∀ (s : State) (rest : List Event) (w : Word64) (d : List Byte), s.events = .cmdT w d :: rest →
    opcOf w = 4#8 → d.length < (arg16Of w).toNat → step s = .next { s with events := rest, out := {} })

/-- After a step that took an event other than reset the machine is at rest (R211): the closing procedures, run
again, would change nothing. -/
def Obligations.StepLeavesTheMachineAtRest : Prop :=
  (∀ s : State, AtRest (closing s)) ∧
  (∀ (s t : State), step s = .next t → AtRest s → ¬ ResetOffered s → AtRest t)

/-! ### Host commands -/

/-- `NOP` (R186): the answer is OK, the command writes no state; its step from a state at rest leaves everything as
it was but for the event taken and the outputs. -/
def Obligations.NopLeavesTheStateUnchanged : Prop :=
  (∀ s : State, exec .nop s = .next { s with out := { s.out with respT := some ⟨.ok, 0, 0⟩ } }) ∧
  (∀ (s : State) (rest : List Event) (w : Word64) (d : List Byte),
    AtRest s → s.events = .cmdT w d :: rest → opcOf w = 0#8 →
    step s = .next { s with events := rest, out := { respT := some ⟨.ok, 0, 0⟩ } })

/-- `START` in every phase (R187). -/
def Obligations.StartByPhase : Prop :=
  ∀ s : State,
    (s.phase = .idle → exec .start s = .next { s with
      phase := .negotiating, rxEn := true, lctrlReq := true, lctrlDeadline := s.now + s.lctrlPeriod,
      out := { s.out with respT := some ⟨.ok, 0, 0⟩ } }) ∧
    (s.phase = .negotiating ∨ s.phase = .opened →
      exec .start s = .next { s with out := { s.out with respT := some ⟨.ok, 0, 0⟩ } }) ∧
    (s.phase = .closed → exec .start s = .next { s with out := { s.out with respT := some ⟨.closed, 0, 0⟩ } }) ∧
    (s.phase = .dead → exec .start s = .next { s with out := { s.out with respT := some ⟨.dead, 0, 0⟩ } })

/-- `CLOSE` in every phase, with `DO_CLOSE(1)` (R188, R189). -/
def Obligations.CloseByPhase : Prop :=
  ∀ s : State,
    (s.phase = .idle → exec .close s = .next { s with
      phase := .closed, closeCause := .localClose, irqStatus := s.irqStatus ||| 0b01000#5,
      out := { s.out with respT := some ⟨.ok, 0, 0⟩ } }) ∧
    (s.phase = .negotiating ∨ s.phase = .opened → exec .close s = .next { s with
      phase := .closed, closeCause := .localClose, rxEn := false, irqStatus := s.irqStatus ||| 0b01000#5,
      finReq := true, out := { s.out with respT := some ⟨.ok, 0, 0⟩ } }) ∧
    (s.phase = .closed ∨ s.phase = .dead →
      exec .close s = .next { s with out := { s.out with respT := some ⟨.ok, 0, 0⟩ } })

/-- `SCHED_LCTRL` in every phase (R171). -/
def Obligations.SchedLctrlByPhase : Prop :=
  ∀ s : State,
    (s.phase = .negotiating ∨ s.phase = .opened → exec .schedLctrl s = .next { s with
      lctrlReq := true, out := { s.out with respT := some ⟨.ok, 0, 0⟩ } }) ∧
    (s.phase = .idle →
      exec .schedLctrl s = .next { s with out := { s.out with respT := some ⟨.ok, 0, 0⟩ } }) ∧
    (s.phase = .closed →
      exec .schedLctrl s = .next { s with out := { s.out with respT := some ⟨.closed, 0, 0⟩ } }) ∧
    (s.phase = .dead →
      exec .schedLctrl s = .next { s with out := { s.out with respT := some ⟨.dead, 0, 0⟩ } })

/-- `PUSH` (R191, R132), with the count of outstanding frames (R22) and the slot of a sequence number (R45).
Outside phase OPEN it accepts nothing and says why (corner cases 5 and 8). In phase OPEN it accepts as many bytes as
the free part of the window holds, cut greedily into chunks of `EFF_PKT`; the m-th chunk becomes the frame of the m-th
next sequence number in its slot, with its timer armed and transmission requested; every other slot and every other
register is as before. -/
def Obligations.PushByPhase : Prop :=
  (∀ s : State, nOut s = (s.sndNext - s.sndUna).toNat) ∧
  (∀ (s : State) (q : Seq), slotIndex s q = q.toNat % s.build.wMax) ∧
  (∀ (s : State) (buf : List Byte),
    (s.phase = .idle ∨ s.phase = .negotiating →
      exec (.push buf) s = .next { s with out := { s.out with respT := some ⟨.ok, 0, 0⟩ } }) ∧
    (s.phase = .closed →
      exec (.push buf) s = .next { s with out := { s.out with respT := some ⟨.closed, 0, 0⟩ } }) ∧
    (s.phase = .dead →
      exec (.push buf) s = .next { s with out := { s.out with respT := some ⟨.dead, 0, 0⟩ } })) ∧
  (∀ (s : State) (buf : List Byte),
    s.phase = .opened → s.frozen = true → Parameters s → s.sw.length = s.build.wMax → buf.length ≤ 65535 →
    let e := s.effPkt.toNat
    let k := min buf.length ((s.effWin.toNat - nOut s) * e)
    let f := (k + e - 1) / e
    ∃ sw',
      exec (.push buf) s = .next { s with
        sw := sw', sndNext := s.sndNext + BitVec.ofNat 8 f,
        out := { s.out with respT := some ⟨.ok, BitVec.ofNat 16 k, 0⟩ } } ∧
      (∀ m < f,
        let c := (buf.drop (m * e)).take e
        let w : SwSlot := sw'.getD (slotIndex s (s.sndNext + BitVec.ofNat 8 m)) {}
        let old := swAt s (slotIndex s (s.sndNext + BitVec.ofNat 8 m))
        w.st = .sent ∧ w.seq = s.sndNext + BitVec.ofNat 8 m ∧ w.len.toNat = c.length ∧
        (∀ o, w.data.read o = if o < c.length then some (byteAt c o) else old.data.read o) ∧
        w.ts = s.now ∧ w.deadline = s.now + BitVec.ofNat 32 (min s.rtoInit.toNat s.rtoMax.toNat) ∧
        w.retry = 0 ∧ w.txreq = true ∧ w.fastrx = false) ∧
      (∀ i, (∀ m < f, slotIndex s (s.sndNext + BitVec.ofNat 8 m) ≠ i) → sw'.getD i {} = swAt s i))

/-- `PULL` (R156): with `maxLen` 0 it answers OK at once and writes nothing; else it writes the pull registers and
nothing else. -/
def Obligations.PullArmsThePullRegisters : Prop :=
  ∀ (s : State) (maxLen : BitVec 16) (timeout : Ticks),
    (maxLen = 0 → exec (.pull maxLen timeout) s = .next { s with out := { s.out with respR := some ⟨.ok, []⟩ } }) ∧
    (maxLen ≠ 0 → exec (.pull maxLen timeout) s = .next { s with
      pullPend := true, pullMax := maxLen, pullInf := decide (timeout = 0xFFFFFFFF#32),
      pullNowait := decide (timeout = 0#32), pullDeadline := s.now + timeout })

/-- `PULL_CHECK()` (R157): data, then CLOSED, then DEAD, then TIMEOUT. -/
def Obligations.PullAnswersInOrder : Prop :=
  ∀ s : State,
    (s.pullPend = false → pullCheck s = s) ∧
    (s.pullPend = true → s.app ≠ [] →
      pullCheck s = { s with
        out := { s.out with respR := some ⟨.ok, s.app.take s.pullMax.toNat⟩ },
        app := s.app.drop s.pullMax.toNat, pullPend := false }) ∧
    (s.pullPend = true → s.app = [] → s.phase = .closed →
      pullCheck s = { s with out := { s.out with respR := some ⟨.closed, []⟩ }, pullPend := false }) ∧
    (s.pullPend = true → s.app = [] → s.phase = .dead →
      pullCheck s = { s with out := { s.out with respR := some ⟨.dead, []⟩ }, pullPend := false }) ∧
    (s.pullPend = true → s.app = [] → s.phase ≠ .closed → s.phase ≠ .dead → s.pullNowait = true →
      pullCheck s = { s with out := { s.out with respR := some ⟨.timeout, []⟩ }, pullPend := false }) ∧
    (s.pullPend = true → s.app = [] → s.phase ≠ .closed → s.phase ≠ .dead → s.pullNowait = false →
      pullCheck s = s)

/-- `RDCSR` (R193, R37, R39): OK and the register's value for the 27 indices of the table, BADARG and 0 for a
reserved index; nothing else changes. The numbers of `PHASE` (R24), `CLOSE_CAUSE` (R25) and `DEAD_CAUSE` (R238) that
`STATE` and `DEAD_CAUSE` show are the spec's. -/
def Obligations.RdcsrReadsTheTable : Prop :=
  (Phase.idle.code = 0 ∧ Phase.negotiating.code = 1 ∧ Phase.opened.code = 2 ∧ Phase.closed.code = 3 ∧
    Phase.dead.code = 4) ∧
  (CloseCause.notClosed.code = 0 ∧ CloseCause.localClose.code = 1 ∧ CloseCause.peerFin.code = 2) ∧
  (DeadCause.none.code = 0 ∧ DeadCause.retryExhausted.code = 1 ∧ DeadCause.rxErr.code = 2 ∧
    DeadCause.rxEos.code = 3 ∧ DeadCause.txErr.code = 4 ∧ DeadCause.txEos.code = 5) ∧
  (∀ (s : State) (idx : Byte), s.build.ok = true →
    let released := s.phase = .dead ∨ (s.phase = .closed ∧ s.txbuf = [] ∧ s.finReq = false)
    let table : List Nat :=
      [0x534C4150, s.build.pMax * 256 + s.build.wMax, s.build.appCap,
        s.phase.code.toNat + 8 * s.frozen.toNat + 16 * s.closeCause.code.toNat +
          64 * (if released then 1 else 0) + 128 * s.pullPend.toNat,
        s.localPkt.toNat, s.localWin.toNat, s.baud.toNat, s.effPkt.toNat, s.effWin.toNat, s.rtoInit.toNat,
        s.rtoMax.toNat, s.retryMax.toNat, s.lctrlPeriod.toNat, s.now.toNat, s.sndUna.toNat, s.sndNext.toNat,
        s.rcvExp.toNat, (s.sndNext - s.sndUna).toNat, s.app.length, s.irqStatus.toNat, s.irqEnable.toNat,
        s.deadCause.code.toNat, s.deadInfo.toNat, s.dropFcs.toNat, s.dropFormat.toNat, s.dropOversize.toNat,
        s.dropSeq.toNat]
    exec (.rdcsr idx) s = .next { s with out := { s.out with
      respT := some (if idx.toNat < 27 then ⟨.ok, 0, BitVec.ofNat 32 (table.getD idx.toNat 0)⟩
        else ⟨.badArg, 0, 0⟩) } })

/-- `WRCSR` (R38, R194): BADARG for a reserved or read-only index; LOCKED for an RWI register outside IDLE; in IDLE a
value outside the legal range is refused and a legal one is stored; `IRQ_STATUS` is write-one-to-clear; `IRQ_ENABLE`
takes bits 4:0. -/
def Obligations.WrcsrFollowsTheWriteProcedure : Prop :=
  ∀ (s : State) (idx : Byte) (v : BitVec 32), s.build.ok = true →
    let answer (t : State) (st : Status) : Host.Outcome State Fault Refusal :=
      .next { t with out := { s.out with respT := some ⟨st, 0, 0⟩ } }
    let rwi : List Nat := [0x04, 0x05, 0x06, 0x09, 0x0A, 0x0B, 0x0C]
    (idx.toNat ∉ rwi → idx ≠ 0x13 → idx ≠ 0x14 → exec (.wrcsr idx v) s = answer s .badArg) ∧
    (idx.toNat ∈ rwi → s.phase ≠ .idle → exec (.wrcsr idx v) s = answer s .locked) ∧
    (s.phase = .idle →
      exec (.wrcsr 0x04 v) s = (if 1 ≤ v.toNat ∧ v.toNat ≤ s.build.pMax then
        answer { s with localPkt := BitVec.ofNat 16 v.toNat } .ok else answer s .badArg) ∧
      exec (.wrcsr 0x05 v) s = (if 1 ≤ v.toNat ∧ v.toNat ≤ s.build.wMax then
        answer { s with localWin := BitVec.ofNat 8 v.toNat } .ok else answer s .badArg) ∧
      exec (.wrcsr 0x06 v) s = answer { s with baud := v } .ok ∧
      exec (.wrcsr 0x09 v) s = (if 1 ≤ v.toNat ∧ v.toNat < 2 ^ 31 then
        answer { s with rtoInit := v } .ok else answer s .badArg) ∧
      exec (.wrcsr 0x0A v) s = (if 1 ≤ v.toNat ∧ v.toNat < 2 ^ 31 then
        answer { s with rtoMax := v } .ok else answer s .badArg) ∧
      exec (.wrcsr 0x0B v) s = (if v.toNat ≤ 255 then
        answer { s with retryMax := BitVec.ofNat 8 v.toNat } .ok else answer s .badArg) ∧
      exec (.wrcsr 0x0C v) s = (if 1 ≤ v.toNat ∧ v.toNat < 2 ^ 31 then
        answer { s with lctrlPeriod := v } .ok else answer s .badArg)) ∧
    exec (.wrcsr 0x13 v) s = answer { s with irqStatus := s.irqStatus &&& ~~~ BitVec.ofNat 5 v.toNat } .ok ∧
    exec (.wrcsr 0x14 v) s = answer { s with irqEnable := BitVec.ofNat 5 v.toNat } .ok

/-! ### Received frames -/

/-- An ACK frame in phase OPEN (R133) runs `ONACK`, as a DATA frame does with its own number (R117): a number that names
an outstanding frame retires that frame and all older ones, resets the retry counters of the rest, advances `SND_UNA`
past it and sets TXSPACE; any other number changes nothing. The slot of the k-th outstanding frame is that of its
sequence number (R45, R130). -/
def Obligations.AckRetiresCumulatively : Prop :=
  (∀ (s : State) (k : Nat), outIndex s k = (s.sndUna + BitVec.ofNat 8 k).toNat % s.build.wMax) ∧
  (∀ (s : State) (a : Seq), s.phase = .opened → exec (.ack a) s = .next (onAck s a)) ∧
  (∀ (s : State) (a : Seq), s.phase = .opened → Parameters s → s.frozen = true → SenderWindow s →
    let n := (a - s.sndUna + 1).toNat
    (¬ (1 ≤ n ∧ n ≤ nOut s) → exec (.ack a) s = .next s) ∧
    (1 ≤ n ∧ n ≤ nOut s → ∃ sw',
      exec (.ack a) s = .next { s with
        sw := sw', sndUna := a + 1, irqStatus := s.irqStatus ||| 0b00010#5 } ∧
      (∀ k < n, sw'.getD (outIndex s k) {} = { swAt s (outIndex s k) with st := .free, txreq := false }) ∧
      (∀ k, n ≤ k → k < nOut s → sw'.getD (outIndex s k) {} = { swAt s (outIndex s k) with retry := 0 }) ∧
      (∀ i, (∀ k < nOut s, outIndex s k ≠ i) → sw'.getD i {} = swAt s i)))

/-- A NACK frame in phase OPEN (R134): everything an ACK frame does, and then one fast retransmission of the oldest
outstanding frame when the number is the one before it, the frame is ACKPENDING and it has not been fast-retransmitted
since its timer was armed. `retry` and `deadline` are not touched. -/
def Obligations.NackRetransmitsOnce : Prop :=
  ∀ (s : State) (a : Seq), s.phase = .opened → Parameters s → s.frozen = true → SenderWindow s →
    ∃ u, exec (.ack a) s = .next u ∧
      let i := slotIndex u u.sndUna
      let again := 0 < nOut u ∧ a + 1 = u.sndUna ∧ (swAt u i).st = .ackPending ∧ (swAt u i).fastrx = false
      (¬ again → exec (.nack a) s = .next u) ∧
      (again → ∃ sw', exec (.nack a) s = .next { u with sw := sw' } ∧
        sw'.getD i {} = { swAt u i with st := .sent, txreq := true, fastrx := true, ts := s.now } ∧
        ∀ j, j ≠ i → sw'.getD j {} = swAt u j)

/-- A DATA frame in phase OPEN behind the acceptance window is a duplicate: after its acknowledgment number is
processed, an acknowledgment is asked for and the payload is discarded; outside both ranges it is counted and nothing
else (R117, R151). -/
def Obligations.DataOutsideTheWindow : Prop :=
  ∀ (s : State) (seq ack : Seq) (payload : List Byte), s.phase = .opened → s.effWin.toNat ≤ 128 →
    let d := (seq - s.rcvExp).toNat
    (256 - s.effWin.toNat ≤ d →
      exec (.data seq ack payload) s
        = .next { onAck s ack with ackReq := if s.ackReq = .none then .ack else s.ackReq }) ∧
    (s.effWin.toNat ≤ d → d < 256 - s.effWin.toNat →
      exec (.data seq ack payload) s
        = .next { onAck s ack with dropSeq := BitVec.ofNat 16 (min (s.dropSeq.toNat + 1) 0xFFFF) })

/-- A DATA frame in phase OPEN ahead of a missing head (R151, R152, R154): it is kept in its slot, unless the slot
already holds it, nothing is delivered, and a NACK is asked for. -/
def Obligations.DataAheadIsBufferedAndNacked : Prop :=
  ∀ (s : State) (seq ack : Seq) (payload : List Byte),
    s.phase = .opened → Parameters s → s.frozen = true → Reassembly s → payload.length ≤ 65535 →
    1 ≤ (seq - s.rcvExp).toNat → (seq - s.rcvExp).toNat < s.effWin.toNat →
    (rbAt s (slotIndex s s.rcvExp)).valid = false →
    let j := slotIndex s seq
    ((rbAt s j).valid = true → exec (.data seq ack payload) s = .next { onAck s ack with ackReq := .nack }) ∧
    ((rbAt s j).valid = false → ∃ rb',
      exec (.data seq ack payload) s = .next { onAck s ack with rb := rb', ackReq := .nack } ∧
      (let r : RbSlot := rb'.getD j {};
        r.valid = true ∧ r.seq = seq ∧ r.len.toNat = payload.length ∧
        ∀ o, r.data.read o = if o < payload.length then some (byteAt payload o) else (rbAt s j).data.read o) ∧
      ∀ i, i ≠ j → rb'.getD i {} = rbAt s i)

/-- The expected DATA frame in phase OPEN, with room for it (R151, R153): its payload and those of the frames that wait
contiguously behind it, as far as they fit, go to the tail of `APP` whole and in order, `RCV_EXP` advances by their
number, an ACK is asked for, RXDATA is set unless no byte was delivered, and their slots are empty again. -/
def Obligations.DataExpectedIsDelivered : Prop :=
  ∀ (s : State) (ack : Seq) (payload : List Byte),
    s.phase = .opened → Parameters s → s.frozen = true → Reassembly s →
    payload.length ≤ 65535 → payload.length ≤ s.build.appCap - s.app.length →
    (rbAt s (slotIndex s s.rcvExp)).valid = false →
    ∃ (n : Nat) (rb' : List RbSlot), 1 ≤ n ∧ n ≤ s.build.wMax ∧
      let slotOf (m : Nat) : Nat := slotIndex s (s.rcvExp + BitVec.ofNat 8 m)
      let app' := s.app ++ payload ++ (List.range (n - 1)).flatMap (fun m => rbPayload s (slotOf (m + 1)))
      exec (.data s.rcvExp ack payload) s = .next { onAck s ack with
        app := app', rcvExp := s.rcvExp + BitVec.ofNat 8 n, ackReq := .ack, rb := rb',
        irqStatus := if app' = s.app then (onAck s ack).irqStatus else (onAck s ack).irqStatus ||| 0b00001#5 } ∧
      (∀ m, 1 ≤ m → m < n →
        (rbAt s (slotOf m)).valid = true ∧ (rbAt s (slotOf m)).seq = s.rcvExp + BitVec.ofNat 8 m) ∧
      (∀ m < n, (rb'.getD (slotOf m) {}).valid = false) ∧
      (∀ i, (∀ m < n, slotOf m ≠ i) → rb'.getD i {} = rbAt s i) ∧
      ((rb'.getD (slotOf n) {}).valid = true → s.build.appCap - app'.length < (rb'.getD (slotOf n) {}).len.toNat)

/-- A DATA frame of the acceptance window while the head frame waits for room, or is itself the head and does not fit
(R152, R153, R154): it is kept in its slot, unless the slot already holds it, nothing is delivered, and an ACK is asked
for only if nothing was. -/
def Obligations.DataWaitsForRoom : Prop :=
  ∀ (s : State) (seq ack : Seq) (payload : List Byte),
    s.phase = .opened → Parameters s → s.frozen = true → Reassembly s → payload.length ≤ 65535 →
    (seq - s.rcvExp).toNat < s.effWin.toNat →
    ((rbAt s (slotIndex s s.rcvExp)).valid = true ∨
      (seq = s.rcvExp ∧ s.build.appCap - s.app.length < payload.length)) →
    let j := slotIndex s seq
    let req := if s.ackReq = .none then AckReq.ack else s.ackReq
    ((rbAt s j).valid = true → exec (.data seq ack payload) s = .next { onAck s ack with ackReq := req }) ∧
    ((rbAt s j).valid = false → ∃ rb',
      exec (.data seq ack payload) s = .next { onAck s ack with rb := rb', ackReq := req } ∧
      (let r : RbSlot := rb'.getD j {};
        r.valid = true ∧ r.seq = seq ∧ r.len.toNat = payload.length ∧
        ∀ o, r.data.read o = if o < payload.length then some (byteAt payload o) else (rbAt s j).data.read o) ∧
      ∀ i, i ≠ j → rb'.getD i {} = rbAt s i)

/-- A DATA, ACK or NACK frame in phase NEGOTIATING is dropped and counted in `DROP_SEQ`, and nothing else (R117,
R179). That the same holds in IDLE, CLOSED and DEAD, where no frame can arrive, is the model's choice (log
entry 15). -/
def Obligations.FramesBeforeOpenAreDropped : Prop :=
  ∀ (s : State) (seq ack : Seq) (payload : List Byte), s.phase ≠ .opened →
    let dropped : State := { s with dropSeq := BitVec.ofNat 16 (min (s.dropSeq.toNat + 1) 0xFFFF) }
    exec (.data seq ack payload) s = .next dropped ∧ exec (.ack ack) s = .next dropped ∧
      exec (.nack ack) s = .next dropped

/-- A non-FIN LCTRL frame (R174, R175): in phase NEGOTIATING the element-wise minimum is frozen and the stream opens;
in phase OPEN the values are ignored; a frame with `RSP` = 0 is answered. That the frame has the effect of phase OPEN
in IDLE, CLOSED and DEAD, where no frame can arrive, is the model's choice (log entry 15). -/
def Obligations.LctrlFreezesTheMinimum : Prop :=
  ∀ (s : State) (rsp : Bool) (pkt : BitVec 16) (win : Byte),
    (s.phase = .negotiating → ∃ ep ew,
      exec (.lctrl rsp pkt win) s = .next { s with
        effPkt := ep, effWin := ew, frozen := true, phase := .opened, irqStatus := s.irqStatus ||| 0b00100#5,
        lctrlReq := if rsp then s.lctrlReq else true } ∧
      ep.toNat = min s.localPkt.toNat pkt.toNat ∧ ew.toNat = min s.localWin.toNat win.toNat) ∧
    (s.phase ≠ .negotiating →
      exec (.lctrl rsp pkt win) s = .next { s with lctrlReq := if rsp then s.lctrlReq else true })

/-- A FIN frame in phase NEGOTIATING or OPEN (R178, R189): the stream is closed by the peer, reception stops, CLOSED is
set, no FIN is asked for, and nothing else changes; its `RSP` bit and proposal are ignored. That the meaning is the
same in IDLE, CLOSED and DEAD, where no frame can arrive, is the model's choice (log entry 15). -/
def Obligations.FinClosesTheStream : Prop :=
  ∀ (s : State) (rsp : Bool) (pkt : BitVec 16) (win : Byte),
    exec (.lctrlFin rsp pkt win) s = .next { s with
      phase := .closed, closeCause := .peerFin, rxEn := false, irqStatus := s.irqStatus ||| 0b01000#5 }

/-- `DRAIN()` (R153, R160): it delivers the payloads of the contiguous prefix, whole and in order, to the tail of
`APP`, advances `RCV_EXP` by their number and empties their slots, until the phase is not OPEN, or the head slot does
not hold the expected frame, or `APP_FREE` is less than its length; it writes nothing else. As a closing procedure its
result is not used (R211). The payload of a slot is its first `len` bytes, in order. -/
def Obligations.DrainDeliversTheContiguousPrefix : Prop :=
  (∀ s : State, s.build.ok = true → s.rb.length = s.build.wMax →
    ∃ n app' rb' irq' t,
      drainCount s = (t, n) ∧
      t = { s with
        app := app', rb := rb', rcvExp := s.rcvExp + BitVec.ofNat 8 n, irqStatus := irq',
        ackReq := if n = 0 then s.ackReq else .ack } ∧
      n ≤ s.build.wMax ∧ (0 < n → s.phase = .opened) ∧
      (∀ m < n, (rbAt s (slotIndex s (s.rcvExp + BitVec.ofNat 8 m))).valid = true ∧
        (rbAt s (slotIndex s (s.rcvExp + BitVec.ofNat 8 m))).seq = s.rcvExp + BitVec.ofNat 8 m) ∧
      app' = s.app ++ (List.range n).flatMap
        (fun m => rbPayload s (slotIndex s (s.rcvExp + BitVec.ofNat 8 m))) ∧
      (s.app.length ≤ s.build.appCap → app'.length ≤ s.build.appCap) ∧
      irq' = (if app' = s.app then s.irqStatus else s.irqStatus ||| 0b00001#5) ∧
      (∀ m < n, rb'.getD (slotIndex s (s.rcvExp + BitVec.ofNat 8 m)) {}
        = { rbAt s (slotIndex s (s.rcvExp + BitVec.ofNat 8 m)) with valid := false }) ∧
      (∀ j, (∀ m < n, slotIndex s (s.rcvExp + BitVec.ofNat 8 m) ≠ j) → rb'.getD j {} = rbAt s j) ∧
      ¬ (t.phase = .opened ∧ (rbAt t (slotIndex t t.rcvExp)).valid = true ∧
        (rbAt t (slotIndex t t.rcvExp)).seq = t.rcvExp ∧
        (rbAt t (slotIndex t t.rcvExp)).len.toNat ≤ t.build.appCap - t.app.length)) ∧
  (∀ s : State, drain s = (drainCount s).1) ∧
  (∀ (s : State) (j : Nat), (rbPayload s j).length = (rbAt s j).len.toNat ∧
    ∀ o < (rbAt s j).len.toNat, ∀ b, (rbAt s j).data.read o = some b → byteAt (rbPayload s j) o = b)

/-- The application buffer is a strict FIFO (R63, R48): in every step that is not reset, the bytes a `PULL` returns
followed by what is left are the bytes that were there followed by what the step delivered; only phase OPEN delivers. -/
def Obligations.BytesLeaveInTheOrderTheyCame : Prop :=
  ∀ s t : State, s.events ≠ [] → ¬ ResetOffered s → step s = .next t →
    ∃ delivered, s.app ++ delivered = (match t.out.respR with | some r => r.bytes | none => []) ++ t.app ∧
      (delivered ≠ [] → t.phase = .opened)

/-! ### Timers -/

/-- `ONTIMEOUT(i)` (R135): below the ceiling the frame is queued again, its counter incremented, its timer re-armed
with back-off and `fastrx` cleared; above it the stream dies with cause 1 and the frame's sequence number. -/
def Obligations.TimeoutRetransmitsOrKills : Prop :=
  ∀ (s : State) (i : Nat), i < s.sw.length →
    let r := (swAt s i).retry.toNat + 1
    (r ≤ s.retryMax.toNat → ∃ sw', onTimeout s i = { s with sw := sw' } ∧
      sw'.getD i {} = { swAt s i with
        retry := BitVec.ofNat 8 r, st := .sent, txreq := true, ts := s.now,
        deadline := s.now + BitVec.ofNat 32 (min (s.rtoInit.toNat * 2 ^ r) s.rtoMax.toNat), fastrx := false } ∧
      ∀ j, j ≠ i → sw'.getD j {} = swAt s j) ∧
    (s.retryMax.toNat < r → onTimeout s i = { s with
      phase := .dead, deadCause := .retryExhausted, deadInfo := (swAt s i).seq, rxEn := false, txbuf := [],
      txCur := .none, irqStatus := s.irqStatus ||| 0b10000#5 })

/-- `SENDER_TICK` when no due frame has used up its retries (R136, R135): exactly the outstanding frames whose
deadline is `NOW` are queued again; nothing else changes. -/
def Obligations.DueFramesAreRetransmitted : Prop :=
  ∀ s : State, s.phase = .opened → Parameters s → s.frozen = true → SenderWindow s →
    (∀ k < nOut s, (swAt s (outIndex s k)).deadline = s.now →
      (swAt s (outIndex s k)).retry.toNat < s.retryMax.toNat) →
    ∃ sw', senderTick s = { s with sw := sw' } ∧
      (∀ k < nOut s, sw'.getD (outIndex s k) {} =
        if (swAt s (outIndex s k)).deadline = s.now then
          { swAt s (outIndex s k) with
            retry := (swAt s (outIndex s k)).retry + 1, st := .sent, txreq := true, ts := s.now,
            deadline := s.now +
              BitVec.ofNat 32 (min (s.rtoInit.toNat * 2 ^ ((swAt s (outIndex s k)).retry.toNat + 1)) s.rtoMax.toNat),
            fastrx := false }
        else swAt s (outIndex s k)) ∧
      (∀ i, (∀ k < nOut s, outIndex s k ≠ i) → sw'.getD i {} = swAt s i)

/-- `SENDER_TICK` when a due frame has used up its retries (R136, R135, R237): the oldest such frame kills the stream
with cause 1 and its sequence number; the older frames that are due stay queued again (R243), every other frame and
every slot without an outstanding frame is left as it was. -/
def Obligations.ExhaustedRetriesKillTheStream : Prop :=
  ∀ (s : State) (k : Nat), s.phase = .opened → Parameters s → s.frozen = true → SenderWindow s → k < nOut s →
    (swAt s (outIndex s k)).deadline = s.now →
    s.retryMax.toNat ≤ (swAt s (outIndex s k)).retry.toNat →
    (∀ m < k, (swAt s (outIndex s m)).deadline = s.now →
      (swAt s (outIndex s m)).retry.toNat < s.retryMax.toNat) →
    ∃ sw', senderTick s = { s with
        sw := sw', phase := .dead, deadCause := .retryExhausted, deadInfo := s.sndUna + BitVec.ofNat 8 k,
        rxEn := false, txbuf := [], txCur := .none, irqStatus := s.irqStatus ||| 0b10000#5 } ∧
      (∀ m < k, sw'.getD (outIndex s m) {} =
        if (swAt s (outIndex s m)).deadline = s.now then
          { swAt s (outIndex s m) with
            retry := (swAt s (outIndex s m)).retry + 1, st := .sent, txreq := true, ts := s.now,
            deadline := s.now +
              BitVec.ofNat 32 (min (s.rtoInit.toNat * 2 ^ ((swAt s (outIndex s m)).retry.toNat + 1)) s.rtoMax.toNat),
            fastrx := false }
        else swAt s (outIndex s m)) ∧
      (∀ m, k ≤ m → m < nOut s → sw'.getD (outIndex s m) {} = swAt s (outIndex s m)) ∧
      (∀ i, (∀ m < nOut s, outIndex s m ≠ i) → sw'.getD i {} = swAt s i)

/-- `TICK` (R252) with its pull and LCTRL timers (R158, R172). `PULL_TICK` changes exactly a pending `PULL` with a
finite timeout whose deadline is now into one that must not wait. In phases IDLE, CLOSED and DEAD only `NOW` and
possibly `PULL_NOWAIT` change before the closing procedures; in NEGOTIATING the LCTRL timer also acts, asking for a
frame and re-arming exactly at its deadline; in OPEN the retransmission timers act. -/
def Obligations.TickByPhase : Prop :=
  (∀ s : State,
    (s.pullPend = true ∧ s.pullInf = false ∧ s.pullDeadline = s.now → pullTick s = { s with pullNowait := true }) ∧
    (¬ (s.pullPend = true ∧ s.pullInf = false ∧ s.pullDeadline = s.now) → pullTick s = s)) ∧
  (∀ (s : State) (rest : List Event), s.events = .tick :: rest →
    let s0 : State := { s with events := rest, out := {}, now := s.now + 1 }
    (s.phase = .idle ∨ s.phase = .closed ∨ s.phase = .dead → step s = .next (closing (pullTick s0))) ∧
    (s.phase = .negotiating → s.lctrlDeadline = s.now + 1 →
      step s = .next (closing (pullTick { s0 with
        lctrlReq := true, lctrlDeadline := s.now + 1 + s.lctrlPeriod }))) ∧
    (s.phase = .negotiating → s.lctrlDeadline ≠ s.now + 1 → step s = .next (closing (pullTick s0))) ∧
    (s.phase = .opened → step s = .next (closing (pullTick (senderTick s0)))))

/-! ### Faults -/

/-- `FATAL(cause, info)` (R237): what it saves and changes, and that nothing else is written. -/
def Obligations.FatalSavesCauseAndStopsTheLink : Prop :=
  ∀ (s : State) (cause : DeadCause) (info : Byte),
    fatal s cause info = { s with
      phase := .dead, deadCause := cause, deadInfo := info, rxEn := false, txbuf := [], txCur := .none,
      irqStatus := s.irqStatus ||| 0b10000#5 } ∧ linkReleased (fatal s cause info) = true

/-- `LINK_FAULT(kind)` (R218, R238): in a live phase kinds 2 to 5 are fatal with the kind as the cause; in CLOSED they
drop what was left to transmit; otherwise, and for the reserved kinds, only the closing procedures run. -/
def Obligations.LinkFaultByPhase : Prop :=
  ∀ (s : State) (rest : List Event) (kind : BitVec 3), s.events = .linkFault kind :: rest →
    let s0 : State := { s with events := rest, out := {} }
    (¬ (2 ≤ kind.toNat ∧ kind.toNat ≤ 5) → step s = .next (closing s0)) ∧
    (2 ≤ kind.toNat ∧ kind.toNat ≤ 5 → s.phase = .negotiating ∨ s.phase = .opened →
      ∃ cause : DeadCause, cause.code = kind ∧ step s = .next (closing { s0 with
        phase := .dead, deadCause := cause, deadInfo := 0, rxEn := false, txbuf := [], txCur := .none,
        irqStatus := s.irqStatus ||| 0b10000#5 })) ∧
    (2 ≤ kind.toNat ∧ kind.toNat ≤ 5 → s.phase = .closed →
      step s = .next (closing { s0 with txbuf := [], txCur := .none, finReq := false })) ∧
    (s.phase = .idle ∨ s.phase = .dead → step s = .next (closing s0))

/-! ### The transmitter -/

/-- `TX_KICK()` (R212, R213): no pre-emption; then FIN, LCTRL, ACK or NACK, and the oldest outstanding frame that
asks, each with the fields sampled now; nothing where nothing asks. The
payload of a DATA frame is the first `len` bytes of its slot, in order. -/
def Obligations.TransmitterServesByPriority : Prop :=
  (∀ s : State,
    let flags := if s.frozen then 1#8 else 0#8
    let proposal := [s.localPkt.extractLsb' 8 8, s.localPkt.extractLsb' 0 8, s.localWin]
    (s.txbuf ≠ [] → txKick s = s) ∧
    (s.txbuf = [] →
      (s.phase = .closed → s.finReq = true → txKick s = { s with
        txbuf := encodeFrame 4 (2 + flags) 0 proposal, txCur := .fin, finReq := false }) ∧
      ((s.phase = .negotiating ∨ s.phase = .opened) → s.lctrlReq = true → txKick s = { s with
        txbuf := encodeFrame 4 flags 0 proposal, txCur := .lctrl, lctrlReq := false }) ∧
      (s.phase = .opened → s.lctrlReq = false → s.ackReq = .ack → txKick s = { s with
        txbuf := encodeFrame 2 0 (s.rcvExp - 1) [], txCur := .ack, ackReq := .none }) ∧
      (s.phase = .opened → s.lctrlReq = false → s.ackReq = .nack → txKick s = { s with
        txbuf := encodeFrame 3 0 (s.rcvExp - 1) [], txCur := .ack, ackReq := .none }) ∧
      (s.phase = .opened → s.lctrlReq = false → s.ackReq = .none → ∀ k < nOut s,
        (swAt s (outIndex s k)).txreq = true → (∀ m < k, (swAt s (outIndex s m)).txreq = false) →
        let i := outIndex s k
        ∃ sw', txKick s = { s with
            txbuf := encodeFrame 1 (swAt s i).seq (s.rcvExp - 1) (swPayload s i),
            txCur := .data i (swAt s i).seq, sw := sw' } ∧
          sw'.getD i {} = { swAt s i with txreq := false } ∧ ∀ j, j ≠ i → sw'.getD j {} = swAt s j) ∧
      (s.phase = .opened → s.lctrlReq = false → s.ackReq = .none →
        (∀ k < nOut s, (swAt s (outIndex s k)).txreq = false) → txKick s = s) ∧
      (s.phase = .negotiating → s.lctrlReq = false → txKick s = s) ∧
      (s.phase = .closed → s.finReq = false → txKick s = s) ∧
      (s.phase = .idle ∨ s.phase = .dead → txKick s = s))) ∧
  (∀ (s : State) (i : Nat), (swPayload s i).length = (swAt s i).len.toNat ∧
    ∀ o < (swAt s i).len.toNat, ∀ b, (swAt s i).data.read o = some b → byteAt (swPayload s i) o = b)

/-- `TX_BYTE` and `TX_DONE()` (R214, R215): the head byte leaves on the wire; after the last byte the transmitter is
free, and the frame's slot becomes ACKPENDING if it still holds that frame, SENT, with no new request. -/
def Obligations.TxByteEmitsTheHeadByte : Prop :=
  ∀ (s : State) (evs : List Event) (b : Byte) (rest : List Byte), s.events = .txByte :: evs → s.txbuf = b :: rest →
    let s0 : State := { s with events := evs, out := { wire := some b }, txbuf := rest }
    (rest ≠ [] → step s = .next (closing s0)) ∧
    (rest = [] → ∀ (i : Nat) (q : Seq), s.txCur = .data i q →
      (swAt s i).st = .sent → (swAt s i).seq = q → (swAt s i).txreq = false →
      step s = .next (closing { s0 with
        txCur := .none, sw := s.sw.modify i (fun slot => { slot with st := .ackPending }) })) ∧
    (rest = [] → (∀ (i : Nat) (q : Seq), s.txCur = .data i q →
        ¬ ((swAt s i).st = .sent ∧ (swAt s i).seq = q ∧ (swAt s i).txreq = false)) →
      step s = .next (closing { s0 with txCur := .none }))

/-! ### Reset -/

/-- The state after reset is the table of R52, for every build. -/
def Obligations.ResetStateIsTheTable : Prop :=
  ∀ b : Build,
    let s := State.resetOf b
    s.build = b ∧ s.phase = .idle ∧ s.frozen = false ∧ s.closeCause = .notClosed ∧ s.sndNext = 0 ∧ s.sndUna = 0 ∧
    s.rcvExp = 0 ∧ s.now = 0 ∧ s.lctrlDeadline = 0 ∧ s.ackReq = .none ∧ s.lctrlReq = false ∧ s.finReq = false ∧
    s.rxEn = false ∧ s.rxs = .hunt ∧ s.rxEsc = false ∧ s.rxlen = 0 ∧ s.pullPend = false ∧ s.pullMax = 0 ∧
    s.pullInf = false ∧ s.pullNowait = false ∧ s.pullDeadline = 0 ∧ s.irqStatus = 0 ∧ s.irqEnable = 0 ∧
    (b.ok = true → s.localPkt.toNat = b.pMax ∧ s.localWin.toNat = b.wMax) ∧ s.baud = 0 ∧ s.effPkt = 0 ∧
    s.effWin = 0 ∧ s.rtoInit = 200 ∧ s.rtoMax = 3200 ∧ s.retryMax = 8 ∧ s.lctrlPeriod = 500 ∧
    s.deadCause = .none ∧ s.deadInfo = 0 ∧ s.dropFcs = 0 ∧ s.dropFormat = 0 ∧ s.dropOversize = 0 ∧ s.dropSeq = 0 ∧
    (s.sw.length = b.wMax ∧ ∀ w ∈ s.sw, w.st = .free ∧ w.seq = 0 ∧ w.len = 0 ∧ w.ts = 0 ∧ w.deadline = 0 ∧
      w.retry = 0 ∧ w.txreq = false ∧ w.fastrx = false) ∧
    (s.rb.length = b.wMax ∧ ∀ r ∈ s.rb, r.valid = false ∧ r.seq = 0 ∧ r.len = 0) ∧
    s.app = [] ∧ s.txbuf = [] ∧ s.txCur = .none

/-- The reset event (R265): from any state, in any phase, everything the spec gives the machine takes its reset value,
nothing is emitted, and no closing procedure runs. The model's own choices: the build stays (log entry 1), the events
still to be offered stay (log entry 5), and the count of resets advances (log entry 2). -/
def Obligations.ResetEventRestoresEverything : Prop :=
  ∀ (s : State) (rest : List Event), s.events = .reset :: rest →
    step s = .next { State.resetOf s.build with events := rest, epoch := s.epoch + 1 }

/-- A build is legal exactly when it meets the constraints of R7; the state after reset meets every invariant, for
every legal build. The environment, here any list of events, is the model's own field (log entry 5), and of the
invariants the canonical form of the byte stores is the model's own representation (log entry 2). -/
def Obligations.ResetMeetsTheInvariants : Prop :=
  (∀ b : Build, b.ok = true ↔ b.wMax ∈ [1, 2, 4, 8, 16, 32, 64, 128] ∧ (1 ≤ b.pMax ∧ b.pMax ≤ 65535) ∧
    (b.pMax ≤ b.appCap ∧ b.appCap < 2 ^ 32)) ∧
  (∀ (b : Build) (evs : List Event), b.ok = true → Invariants { State.resetOf b with events := evs })

/-! ### Rules of the whole machine -/

/-- All transitions of `PHASE` (R220): a step changes the phase only by the causes of the table, each with the effects
the table lists for it; a request that finds the transmitter free is loaded in the same step (R212). What of the
model's own fields a reset keeps is log entries 1, 2 and 5. -/
def Obligations.PhaseChangesOnlyAsListed : Prop :=
  ∀ s t : State, Lifecycle s → step s = .next t → t.phase ≠ s.phase →
    (∃ rest, s.events = .reset :: rest ∧ t.phase = .idle ∧
      t = { State.resetOf s.build with events := rest, epoch := s.epoch + 1 }) ∨
    (∃ w d, s.events.head? = some (.cmdT w d) ∧ opcOf w = 1#8 ∧ s.phase = .idle ∧ t.phase = .negotiating ∧
      t.rxEn = true ∧ t.lctrlDeadline = s.now + s.lctrlPeriod ∧
      if s.txbuf = [] then t.txCur = .lctrl ∧ t.lctrlReq = false else t.lctrlReq = true) ∨
    (∃ w d, s.events.head? = some (.cmdT w d) ∧ opcOf w = 2#8 ∧ s.phase = .idle ∧ t.phase = .closed ∧
      t.closeCause = .localClose ∧ t.finReq = false ∧ t.txbuf = s.txbuf) ∨
    (∃ rsp pkt win, s.events.head? = some (.rxByte 0x7E#8) ∧ s.rxs = .inframe ∧ s.rxEsc = false ∧
      frameCheck s (rxBody s) = .ok (.lctrl rsp pkt win) ∧ s.phase = .negotiating ∧ t.phase = .opened ∧
      t.effPkt.toNat = min s.localPkt.toNat pkt.toNat ∧ t.effWin.toNat = min s.localWin.toNat win.toNat ∧
      t.frozen = true ∧ t.irqStatus.getLsbD 2 = true) ∨
    (∃ w d, s.events.head? = some (.cmdT w d) ∧ opcOf w = 2#8 ∧
      (s.phase = .negotiating ∨ s.phase = .opened) ∧ t.phase = .closed ∧
      t.closeCause = .localClose ∧ t.rxEn = false ∧
      if s.txbuf = [] then t.txCur = .fin ∧ t.finReq = false else t.finReq = true) ∨
    (∃ rsp pkt win, s.events.head? = some (.rxByte 0x7E#8) ∧ s.rxs = .inframe ∧ s.rxEsc = false ∧
      frameCheck s (rxBody s) = .ok (.lctrlFin rsp pkt win) ∧
      (s.phase = .negotiating ∨ s.phase = .opened) ∧ t.phase = .closed ∧
      t.closeCause = .peerFin ∧ t.rxEn = false) ∨
    (∃ kind, s.events.head? = some (.linkFault kind) ∧ 2 ≤ kind.toNat ∧ kind.toNat ≤ 5 ∧
      (s.phase = .negotiating ∨ s.phase = .opened) ∧ t.phase = .dead ∧ t.deadCause.code = kind) ∨
    (s.events.head? = some .tick ∧ s.phase = .opened ∧ t.phase = .dead ∧ t.deadCause = .retryExhausted ∧
      ∃ k < nOut s, (swAt s (outIndex s k)).deadline = s.now + 1 ∧ t.deadInfo = (swAt s (outIndex s k)).seq)

/-- CLOSED and DEAD are final but for reset (R24, R244): the phase, its cause and its information stay, nothing is
received or delivered, and what `APP` holds only leaves. -/
def Obligations.TerminalPhasesAreFinal : Prop :=
  ∀ s t : State, Lifecycle s → (s.phase = .closed ∨ s.phase = .dead) → ¬ ResetOffered s → step s = .next t →
    t.phase = s.phase ∧ t.closeCause = s.closeCause ∧ t.deadCause = s.deadCause ∧ t.deadInfo = s.deadInfo ∧
    t.rcvExp = s.rcvExp ∧ t.sndUna = s.sndUna ∧ t.sndNext = s.sndNext ∧ t.rxEn = false ∧
    (∃ n, t.app = s.app.drop n)

/-- `LINK_RELEASED` (R35), once 1, stays 1 until reset, and no step puts a byte on the wire any more (R196). A step with
no event offered leaves the outputs of the step before it in place; that is the model's choice (log entries 7 and 8). -/
def Obligations.LinkReleaseIsFinal : Prop :=
  (∀ s : State, linkReleased s = true ↔
    s.phase = .dead ∨ (s.phase = .closed ∧ s.txbuf = [] ∧ s.finReq = false)) ∧
  (∀ s t : State, Lifecycle s → linkReleased s = true → ¬ ResetOffered s → step s = .next t →
    linkReleased t = true ∧ t.out.wire = (if s.events = [] then s.out.wire else none))

/-- The notification flags are sticky (R34, R240): a flag that is set stays set over every step but reset and a
`WRCSR` of `IRQ_STATUS` that writes 1 to it; `IRQ_ENABLE` changes only by reset and a `WRCSR` of its own, to bits 4:0
of the value; and the interrupt line is up exactly when a flag is set and enabled (R241). -/
def Obligations.InterruptFlagsStayUntilCleared : Prop :=
  (∀ (s t : State) (i : Nat), step s = .next t → ¬ ResetOffered s → s.irqStatus.getLsbD i = true →
    t.irqStatus.getLsbD i = true ∨
    ∃ w d, s.events.head? = some (.cmdT w d) ∧ opcOf w = 7#8 ∧ idxOf w = 0x13#8 ∧
      (arg32Of w).getLsbD i = true) ∧
  (∀ s t : State, step s = .next t → ¬ ResetOffered s →
    t.irqEnable = s.irqEnable ∨
    ∃ w d, s.events.head? = some (.cmdT w d) ∧ opcOf w = 7#8 ∧ idxOf w = 0x14#8 ∧
      t.irqEnable = (arg32Of w).extractLsb' 0 5) ∧
  (∀ s : State, irq s = true ↔ ∃ i < 5, s.irqStatus.getLsbD i = true ∧ s.irqEnable.getLsbD i = true)

/-- The response words (R96, R98): the status code, a zero byte, the count and the value, each in its place; a port R
response counts its bytes, of which no step returns more than the count can hold, and has value 0. -/
def Obligations.ResponseWordsCarryTheResponse : Prop :=
  (Status.ok.code = 0x00 ∧ Status.timeout.code = 0x01 ∧ Status.closed.code = 0x02 ∧ Status.dead.code = 0x03 ∧
    Status.badCmd.code = 0x04 ∧ Status.badArg.code = 0x05 ∧ Status.locked.code = 0x06) ∧
  (∀ r : RespT, r.word.extractLsb' 56 8 = r.status.code ∧ r.word.extractLsb' 48 8 = 0#8 ∧
    r.word.extractLsb' 32 16 = r.count ∧ r.word.extractLsb' 0 32 = r.value) ∧
  (∀ r : RespR, r.word.extractLsb' 56 8 = r.status.code ∧ r.word.extractLsb' 48 8 = 0#8 ∧
    r.word.extractLsb' 0 32 = 0#32 ∧
    (r.bytes.length ≤ 65535 → (r.word.extractLsb' 32 16).toNat = r.bytes.length)) ∧
  (∀ (s t : State) (r : RespR), s.events ≠ [] → step s = .next t → t.out.respR = some r → r.bytes.length ≤ 65535)

/-- Outside phase IDLE the run-time registers are locked (R38, R75), and the effective parameters, once frozen, never
change (R25, R40): only reset does either. -/
def Obligations.ParametersAreLocked : Prop :=
  (∀ s t : State, s.phase ≠ .idle → ¬ ResetOffered s → step s = .next t →
    t.localPkt = s.localPkt ∧ t.localWin = s.localWin ∧ t.baud = s.baud ∧ t.rtoInit = s.rtoInit ∧
    t.rtoMax = s.rtoMax ∧ t.retryMax = s.retryMax ∧ t.lctrlPeriod = s.lctrlPeriod ∧ t.build = s.build) ∧
  (∀ s t : State, Lifecycle s → s.frozen = true → ¬ ResetOffered s → step s = .next t →
    t.frozen = true ∧ t.effPkt = s.effPkt ∧ t.effWin = s.effWin)

/-! ### Invariants every step keeps -/

/-- The lifecycle registers (R53 (8), (9), (10), R25, R238) and the empty `TXBUF` of phase DEAD (R214, R237). -/
def Obligations.StepKeepsLifecycle : Prop :=
  ∀ s t : State, Lifecycle s → step s = .next t → Lifecycle t

/-- R7, R37, R40. -/
def Obligations.StepKeepsParameters : Prop :=
  ∀ s t : State, Parameters s → step s = .next t → Parameters t

/-- The window bound and the sender file (R45, R53 (1) and (2), R138). -/
def Obligations.StepKeepsSenderWindow : Prop :=
  ∀ s t : State, Lifecycle s → Parameters s → SenderWindow s → step s = .next t → SenderWindow t

/-- R50, R53 (6), R131. -/
def Obligations.StepKeepsTransmitter : Prop :=
  ∀ s t : State, Lifecycle s → Parameters s → SenderWindow s → Transmitter s → step s = .next t → Transmitter t

/-- R47, R53 (3). -/
def Obligations.StepKeepsReassembly : Prop :=
  ∀ s t : State, Lifecycle s → Parameters s → Reassembly s → step s = .next t → Reassembly t

/-- R53 (4) and (5), R157. -/
def Obligations.StepKeepsBuffers : Prop :=
  ∀ s t : State, Buffers s → step s = .next t → Buffers t

/-- The byte stores stay inside their capacities (R60) and in their canonical form, which is the model's own
representation (log entry 2). -/
def Obligations.StepKeepsStores : Prop :=
  ∀ s t : State, Parameters s → Buffers s → Stores s → step s = .next t → Stores t

/-- Every state that any environment can drive the machine to from reset, with any legal build, meets every invariant:
those R53 summarises, the model's readings of R24, R25, R33, R131, R214 and R238, and the canonical form of the byte
stores (log entry 2). The environment is the list of events it will offer (log entry 5). -/
def Obligations.ReachableStatesMeetTheInvariants : Prop :=
  ∀ (b : Build) (evs : List Event) (n : Nat) (t : State), b.ok = true →
    Sys2Proof.core.run n { State.resetOf b with events := evs } = .next t → Invariants t
end

