-- ==== Sys2Proof/Laws/Memory.lean ====
section
/-! SUPPORT. The laws of byte stores: what is read after a write, and that every operation keeps the canonical form
(offsets strictly rising). -/

namespace Sys2Proof.Machine

/-! ### Reading -/

@[simp] theorem Memory.read_nil (a : Nat) : Memory.read [] a = none := rfl

/-- A byte just written is read back. -/
@[simp] theorem Memory.read_write_same (m : Memory) (a : Nat) (b : Byte) :
    Memory.read (Memory.write m a b) a = some b := by
  induction m with
  | nil => simp [Memory.write, Memory.read]
  | cons c m ih =>
    obtain ⟨a', b'⟩ := c
    simp only [Memory.write]
    split
    · simp [Memory.read]
    · split
      · simp [Memory.read]
      · next h => simp [Memory.read, h, ih]

/-- A write leaves every other offset alone. -/
theorem Memory.read_write_other (m : Memory) {a c : Nat} (b : Byte) (h : c ≠ a) :
    Memory.read (Memory.write m a b) c = Memory.read m c := by
  induction m with
  | nil => simp [Memory.write, Memory.read, h]
  | cons e m ih =>
    obtain ⟨a', b'⟩ := e
    simp only [Memory.write]
    split
    · simp [Memory.read, h]
    · split
      · next h' => subst h'; simp [Memory.read, h]
      · simp [Memory.read, ih]

/-- What is read after a run of writes: the run's byte inside it, the old byte outside it. -/
theorem Memory.read_writeRun (m : Memory) (a : Nat) (bs : List Byte) (c : Nat) :
    Memory.read (Memory.writeRun m a bs) c
      = if a ≤ c then (match bs[c - a]? with | some b => some b | none => Memory.read m c) else Memory.read m c := by
  induction bs generalizing m a with
  | nil => simp [Memory.writeRun]
  | cons b bs ih =>
    simp only [Memory.writeRun, ih]
    by_cases h : a = c
    · subst h; simp
    · by_cases h1 : a ≤ c
      · have h2 : a + 1 ≤ c := by omega
        have h3 : c - a = (c - (a + 1)) + 1 := by omega
        rw [if_pos h1, if_pos h2, h3, List.getElem?_cons_succ, Memory.read_write_other m b (by omega)]
      · rw [if_neg h1, if_neg (by omega), Memory.read_write_other m b (by omega)]

/-- Inside the run. -/
theorem Memory.read_writeRun_zero (m : Memory) (bs : List Byte) {k : Nat} (h : k < bs.length) :
    Memory.read (Memory.writeRun m 0 bs) k = some bs[k] := by
  simp [Memory.read_writeRun, h]

/-- At and above the end of a run that starts at 0 every byte is as before (R62). -/
theorem Memory.read_writeRun_above (m : Memory) (bs : List Byte) {k : Nat} (h : bs.length ≤ k) :
    Memory.read (Memory.writeRun m 0 bs) k = Memory.read m k := by
  simp [Memory.read_writeRun, h]

@[simp] theorem Memory.readRun_length (fill : Nat → Byte) (m : Memory) (n : Nat) :
    (Memory.readRun fill m n).length = n := by simp [Memory.readRun]

/-- A run just written at offset 0 is read back whole, whatever the store held. -/
@[simp] theorem Memory.readRun_writeRun (fill : Nat → Byte) (m : Memory) (bs : List Byte) :
    Memory.readRun fill (Memory.writeRun m 0 bs) bs.length = bs := by
  apply List.ext_getElem
  · simp
  · intro k h1 h2
    simp [Memory.readRun, Memory.read_writeRun_zero m bs h2]

/-- Appending one byte at the end of a run. -/
theorem Memory.readRun_write_end (fill : Nat → Byte) (m : Memory) (n : Nat) (b : Byte) :
    Memory.readRun fill (Memory.write m n b) (n + 1) = Memory.readRun fill m n ++ [b] := by
  simp only [Memory.readRun, List.range_succ, List.map_append, List.map_cons, List.map_nil,
    Memory.read_write_same, Option.getD_some]
  congr 1
  apply List.map_congr_left
  intro k hk
  rw [Memory.read_write_other m b (by have := List.mem_range.mp hk; omega)]

/-! ### The canonical form -/

@[simp] theorem Memory.wf_nil : Memory.wf [] = true := rfl

/-- The canonical form as a chain of strictly rising offsets. -/
theorem Memory.wf_iff (m : Memory) : Memory.wf m = true ↔ m.Pairwise (fun c d => c.1 < d.1) := by
  induction m with
  | nil => simp
  | cons c m ih =>
    cases m with
    | nil => simp [Memory.wf]
    | cons d m =>
      simp only [Memory.wf, Bool.and_eq_true, decide_eq_true_eq, ih, List.pairwise_cons, List.mem_cons]
      constructor
      · rintro ⟨h, h1, h2⟩
        refine ⟨?_, h1, h2⟩
        rintro e (rfl | he)
        · exact h
        · exact lt_trans h (h1 e he)
      · rintro ⟨h, h1, h2⟩
        exact ⟨h d (Or.inl rfl), h1, h2⟩

/-- The cells after a write: the written one, and cells that were there before. -/
theorem Memory.mem_write {m : Memory} {a : Nat} {b : Byte} {c : Host.Cell} (h : c ∈ Memory.write m a b) :
    c = (a, b) ∨ c ∈ m := by
  induction m with
  | nil => simpa [Memory.write] using h
  | cons e m ih =>
    obtain ⟨a', b'⟩ := e
    simp only [Memory.write] at h
    split at h
    · simpa using h
    · split at h
      · rcases List.mem_cons.mp h with h | h
        · exact Or.inl h
        · exact Or.inr (List.mem_cons_of_mem _ h)
      · rcases List.mem_cons.mp h with h | h
        · exact Or.inr (by simp [h])
        · rcases ih h with h | h
          · exact Or.inl h
          · exact Or.inr (List.mem_cons_of_mem _ h)

/-- A write keeps the canonical form. -/
theorem Memory.write_wf {m : Memory} (h : Memory.wf m = true) (a : Nat) (b : Byte) :
    Memory.wf (Memory.write m a b) = true := by
  rw [Memory.wf_iff] at h ⊢
  induction m with
  | nil => simp [Memory.write]
  | cons e m ih =>
    obtain ⟨a', b'⟩ := e
    rw [List.pairwise_cons] at h
    simp only [Memory.write]
    split
    · next h1 =>
      refine List.pairwise_cons.mpr ⟨?_, List.pairwise_cons.mpr h⟩
      intro c hc
      rcases List.mem_cons.mp hc with rfl | hc
      · exact h1
      · exact lt_trans h1 (h.1 c hc)
    · split
      · next h1 => subst h1; exact List.pairwise_cons.mpr h
      · next h1 h2 =>
        refine List.pairwise_cons.mpr ⟨?_, ih h.2⟩
        intro c hc
        rcases Memory.mem_write hc with rfl | hc
        · show a' < a
          omega
        · exact h.1 c hc

/-- A run of writes keeps the canonical form. -/
theorem Memory.writeRun_wf {m : Memory} (h : Memory.wf m = true) (a : Nat) (bs : List Byte) :
    Memory.wf (Memory.writeRun m a bs) = true := by
  induction bs generalizing m a with
  | nil => exact h
  | cons b bs ih => exact ih (Memory.write_wf h a b) (a + 1)

/-- The cells after a run of writes lie in the run or were there before. -/
theorem Memory.mem_writeRun {m : Memory} {a : Nat} {bs : List Byte} {c : Host.Cell}
    (h : c ∈ Memory.writeRun m a bs) : (a ≤ c.1 ∧ c.1 < a + bs.length) ∨ c ∈ m := by
  induction bs generalizing m a with
  | nil => exact Or.inr h
  | cons b bs ih =>
    simp only [List.length_cons]
    rcases ih h with h1 | h1
    · exact Or.inl ⟨by omega, by omega⟩
    · rcases Memory.mem_write h1 with rfl | h1
      · exact Or.inl ⟨le_refl _, by simp⟩
      · exact Or.inr h1

/-- After reset every store is in canonical form. -/
theorem reset_stores_wf (b : Build) :
    Memory.wf (State.resetOf b).rxbuf = true ∧ (∀ w ∈ (State.resetOf b).sw, Memory.wf w.data = true) ∧
      ∀ r ∈ (State.resetOf b).rb, Memory.wf r.data = true := by
  refine ⟨rfl, ?_, ?_⟩
  · intro w hw
    rw [List.eq_of_mem_replicate hw]
    rfl
  · intro r hr
    rw [List.eq_of_mem_replicate hr]
    rfl

end Sys2Proof.Machine
end

