-- ==== Sys2Proof/Laws/State.lean ====
section
/-! SUPPORT. What each named update of the state leaves in each field: one lemma per field per update, so that no proof
unfolds a record update. -/

namespace Sys2Proof.Machine

/-! ### `emitT` -/

@[simp] theorem emitT_build (s : State) (st : Status) (c : BitVec 16) (v : BitVec 32) :
    (emitT s st c v).build = s.build := rfl
@[simp] theorem emitT_sndNext (s : State) (st : Status) (c : BitVec 16) (v : BitVec 32) :
    (emitT s st c v).sndNext = s.sndNext := rfl
@[simp] theorem emitT_sndUna (s : State) (st : Status) (c : BitVec 16) (v : BitVec 32) :
    (emitT s st c v).sndUna = s.sndUna := rfl
@[simp] theorem emitT_rcvExp (s : State) (st : Status) (c : BitVec 16) (v : BitVec 32) :
    (emitT s st c v).rcvExp = s.rcvExp := rfl
@[simp] theorem emitT_phase (s : State) (st : Status) (c : BitVec 16) (v : BitVec 32) :
    (emitT s st c v).phase = s.phase := rfl
@[simp] theorem emitT_frozen (s : State) (st : Status) (c : BitVec 16) (v : BitVec 32) :
    (emitT s st c v).frozen = s.frozen := rfl
@[simp] theorem emitT_closeCause (s : State) (st : Status) (c : BitVec 16) (v : BitVec 32) :
    (emitT s st c v).closeCause = s.closeCause := rfl
@[simp] theorem emitT_now (s : State) (st : Status) (c : BitVec 16) (v : BitVec 32) :
    (emitT s st c v).now = s.now := rfl
@[simp] theorem emitT_lctrlDeadline (s : State) (st : Status) (c : BitVec 16) (v : BitVec 32) :
    (emitT s st c v).lctrlDeadline = s.lctrlDeadline := rfl
@[simp] theorem emitT_ackReq (s : State) (st : Status) (c : BitVec 16) (v : BitVec 32) :
    (emitT s st c v).ackReq = s.ackReq := rfl
@[simp] theorem emitT_lctrlReq (s : State) (st : Status) (c : BitVec 16) (v : BitVec 32) :
    (emitT s st c v).lctrlReq = s.lctrlReq := rfl
@[simp] theorem emitT_finReq (s : State) (st : Status) (c : BitVec 16) (v : BitVec 32) :
    (emitT s st c v).finReq = s.finReq := rfl
@[simp] theorem emitT_rxEn (s : State) (st : Status) (c : BitVec 16) (v : BitVec 32) :
    (emitT s st c v).rxEn = s.rxEn := rfl
@[simp] theorem emitT_rxs (s : State) (st : Status) (c : BitVec 16) (v : BitVec 32) :
    (emitT s st c v).rxs = s.rxs := rfl
@[simp] theorem emitT_rxEsc (s : State) (st : Status) (c : BitVec 16) (v : BitVec 32) :
    (emitT s st c v).rxEsc = s.rxEsc := rfl
@[simp] theorem emitT_rxbuf (s : State) (st : Status) (c : BitVec 16) (v : BitVec 32) :
    (emitT s st c v).rxbuf = s.rxbuf := rfl
@[simp] theorem emitT_rxlen (s : State) (st : Status) (c : BitVec 16) (v : BitVec 32) :
    (emitT s st c v).rxlen = s.rxlen := rfl
@[simp] theorem emitT_pullPend (s : State) (st : Status) (c : BitVec 16) (v : BitVec 32) :
    (emitT s st c v).pullPend = s.pullPend := rfl
@[simp] theorem emitT_pullMax (s : State) (st : Status) (c : BitVec 16) (v : BitVec 32) :
    (emitT s st c v).pullMax = s.pullMax := rfl
@[simp] theorem emitT_pullInf (s : State) (st : Status) (c : BitVec 16) (v : BitVec 32) :
    (emitT s st c v).pullInf = s.pullInf := rfl
@[simp] theorem emitT_pullNowait (s : State) (st : Status) (c : BitVec 16) (v : BitVec 32) :
    (emitT s st c v).pullNowait = s.pullNowait := rfl
@[simp] theorem emitT_pullDeadline (s : State) (st : Status) (c : BitVec 16) (v : BitVec 32) :
    (emitT s st c v).pullDeadline = s.pullDeadline := rfl
@[simp] theorem emitT_irqStatus (s : State) (st : Status) (c : BitVec 16) (v : BitVec 32) :
    (emitT s st c v).irqStatus = s.irqStatus := rfl
@[simp] theorem emitT_irqEnable (s : State) (st : Status) (c : BitVec 16) (v : BitVec 32) :
    (emitT s st c v).irqEnable = s.irqEnable := rfl
@[simp] theorem emitT_localPkt (s : State) (st : Status) (c : BitVec 16) (v : BitVec 32) :
    (emitT s st c v).localPkt = s.localPkt := rfl
@[simp] theorem emitT_localWin (s : State) (st : Status) (c : BitVec 16) (v : BitVec 32) :
    (emitT s st c v).localWin = s.localWin := rfl
@[simp] theorem emitT_baud (s : State) (st : Status) (c : BitVec 16) (v : BitVec 32) :
    (emitT s st c v).baud = s.baud := rfl
@[simp] theorem emitT_effPkt (s : State) (st : Status) (c : BitVec 16) (v : BitVec 32) :
    (emitT s st c v).effPkt = s.effPkt := rfl
@[simp] theorem emitT_effWin (s : State) (st : Status) (c : BitVec 16) (v : BitVec 32) :
    (emitT s st c v).effWin = s.effWin := rfl
@[simp] theorem emitT_rtoInit (s : State) (st : Status) (c : BitVec 16) (v : BitVec 32) :
    (emitT s st c v).rtoInit = s.rtoInit := rfl
@[simp] theorem emitT_rtoMax (s : State) (st : Status) (c : BitVec 16) (v : BitVec 32) :
    (emitT s st c v).rtoMax = s.rtoMax := rfl
@[simp] theorem emitT_retryMax (s : State) (st : Status) (c : BitVec 16) (v : BitVec 32) :
    (emitT s st c v).retryMax = s.retryMax := rfl
@[simp] theorem emitT_lctrlPeriod (s : State) (st : Status) (c : BitVec 16) (v : BitVec 32) :
    (emitT s st c v).lctrlPeriod = s.lctrlPeriod := rfl
@[simp] theorem emitT_deadCause (s : State) (st : Status) (c : BitVec 16) (v : BitVec 32) :
    (emitT s st c v).deadCause = s.deadCause := rfl
@[simp] theorem emitT_deadInfo (s : State) (st : Status) (c : BitVec 16) (v : BitVec 32) :
    (emitT s st c v).deadInfo = s.deadInfo := rfl
@[simp] theorem emitT_dropFcs (s : State) (st : Status) (c : BitVec 16) (v : BitVec 32) :
    (emitT s st c v).dropFcs = s.dropFcs := rfl
@[simp] theorem emitT_dropFormat (s : State) (st : Status) (c : BitVec 16) (v : BitVec 32) :
    (emitT s st c v).dropFormat = s.dropFormat := rfl
@[simp] theorem emitT_dropOversize (s : State) (st : Status) (c : BitVec 16) (v : BitVec 32) :
    (emitT s st c v).dropOversize = s.dropOversize := rfl
@[simp] theorem emitT_dropSeq (s : State) (st : Status) (c : BitVec 16) (v : BitVec 32) :
    (emitT s st c v).dropSeq = s.dropSeq := rfl
@[simp] theorem emitT_sw (s : State) (st : Status) (c : BitVec 16) (v : BitVec 32) : (emitT s st c v).sw = s.sw := rfl
@[simp] theorem emitT_rb (s : State) (st : Status) (c : BitVec 16) (v : BitVec 32) : (emitT s st c v).rb = s.rb := rfl
@[simp] theorem emitT_app (s : State) (st : Status) (c : BitVec 16) (v : BitVec 32) :
    (emitT s st c v).app = s.app := rfl
@[simp] theorem emitT_txbuf (s : State) (st : Status) (c : BitVec 16) (v : BitVec 32) :
    (emitT s st c v).txbuf = s.txbuf := rfl
@[simp] theorem emitT_txCur (s : State) (st : Status) (c : BitVec 16) (v : BitVec 32) :
    (emitT s st c v).txCur = s.txCur := rfl
@[simp] theorem emitT_events (s : State) (st : Status) (c : BitVec 16) (v : BitVec 32) :
    (emitT s st c v).events = s.events := rfl
@[simp] theorem emitT_out (s : State) (st : Status) (c : BitVec 16) (v : BitVec 32) :
    (emitT s st c v).out = { s.out with respT := some { status := st, count := c, value := v } } := rfl
@[simp] theorem emitT_epoch (s : State) (st : Status) (c : BitVec 16) (v : BitVec 32) :
    (emitT s st c v).epoch = s.epoch := rfl

/-! ### `emitR` -/

@[simp] theorem emitR_build (s : State) (st : Status) (bs : List Byte) : (emitR s st bs).build = s.build := rfl
@[simp] theorem emitR_sndNext (s : State) (st : Status) (bs : List Byte) : (emitR s st bs).sndNext = s.sndNext := rfl
@[simp] theorem emitR_sndUna (s : State) (st : Status) (bs : List Byte) : (emitR s st bs).sndUna = s.sndUna := rfl
@[simp] theorem emitR_rcvExp (s : State) (st : Status) (bs : List Byte) : (emitR s st bs).rcvExp = s.rcvExp := rfl
@[simp] theorem emitR_phase (s : State) (st : Status) (bs : List Byte) : (emitR s st bs).phase = s.phase := rfl
@[simp] theorem emitR_frozen (s : State) (st : Status) (bs : List Byte) : (emitR s st bs).frozen = s.frozen := rfl
@[simp] theorem emitR_closeCause (s : State) (st : Status) (bs : List Byte) :
    (emitR s st bs).closeCause = s.closeCause := rfl
@[simp] theorem emitR_now (s : State) (st : Status) (bs : List Byte) : (emitR s st bs).now = s.now := rfl
@[simp] theorem emitR_lctrlDeadline (s : State) (st : Status) (bs : List Byte) :
    (emitR s st bs).lctrlDeadline = s.lctrlDeadline := rfl
@[simp] theorem emitR_ackReq (s : State) (st : Status) (bs : List Byte) : (emitR s st bs).ackReq = s.ackReq := rfl
@[simp] theorem emitR_lctrlReq (s : State) (st : Status) (bs : List Byte) :
    (emitR s st bs).lctrlReq = s.lctrlReq := rfl
@[simp] theorem emitR_finReq (s : State) (st : Status) (bs : List Byte) : (emitR s st bs).finReq = s.finReq := rfl
@[simp] theorem emitR_rxEn (s : State) (st : Status) (bs : List Byte) : (emitR s st bs).rxEn = s.rxEn := rfl
@[simp] theorem emitR_rxs (s : State) (st : Status) (bs : List Byte) : (emitR s st bs).rxs = s.rxs := rfl
@[simp] theorem emitR_rxEsc (s : State) (st : Status) (bs : List Byte) : (emitR s st bs).rxEsc = s.rxEsc := rfl
@[simp] theorem emitR_rxbuf (s : State) (st : Status) (bs : List Byte) : (emitR s st bs).rxbuf = s.rxbuf := rfl
@[simp] theorem emitR_rxlen (s : State) (st : Status) (bs : List Byte) : (emitR s st bs).rxlen = s.rxlen := rfl
@[simp] theorem emitR_pullPend (s : State) (st : Status) (bs : List Byte) :
    (emitR s st bs).pullPend = s.pullPend := rfl
@[simp] theorem emitR_pullMax (s : State) (st : Status) (bs : List Byte) : (emitR s st bs).pullMax = s.pullMax := rfl
@[simp] theorem emitR_pullInf (s : State) (st : Status) (bs : List Byte) : (emitR s st bs).pullInf = s.pullInf := rfl
@[simp] theorem emitR_pullNowait (s : State) (st : Status) (bs : List Byte) :
    (emitR s st bs).pullNowait = s.pullNowait := rfl
@[simp] theorem emitR_pullDeadline (s : State) (st : Status) (bs : List Byte) :
    (emitR s st bs).pullDeadline = s.pullDeadline := rfl
@[simp] theorem emitR_irqStatus (s : State) (st : Status) (bs : List Byte) :
    (emitR s st bs).irqStatus = s.irqStatus := rfl
@[simp] theorem emitR_irqEnable (s : State) (st : Status) (bs : List Byte) :
    (emitR s st bs).irqEnable = s.irqEnable := rfl
@[simp] theorem emitR_localPkt (s : State) (st : Status) (bs : List Byte) :
    (emitR s st bs).localPkt = s.localPkt := rfl
@[simp] theorem emitR_localWin (s : State) (st : Status) (bs : List Byte) :
    (emitR s st bs).localWin = s.localWin := rfl
@[simp] theorem emitR_baud (s : State) (st : Status) (bs : List Byte) : (emitR s st bs).baud = s.baud := rfl
@[simp] theorem emitR_effPkt (s : State) (st : Status) (bs : List Byte) : (emitR s st bs).effPkt = s.effPkt := rfl
@[simp] theorem emitR_effWin (s : State) (st : Status) (bs : List Byte) : (emitR s st bs).effWin = s.effWin := rfl
@[simp] theorem emitR_rtoInit (s : State) (st : Status) (bs : List Byte) : (emitR s st bs).rtoInit = s.rtoInit := rfl
@[simp] theorem emitR_rtoMax (s : State) (st : Status) (bs : List Byte) : (emitR s st bs).rtoMax = s.rtoMax := rfl
@[simp] theorem emitR_retryMax (s : State) (st : Status) (bs : List Byte) :
    (emitR s st bs).retryMax = s.retryMax := rfl
@[simp] theorem emitR_lctrlPeriod (s : State) (st : Status) (bs : List Byte) :
    (emitR s st bs).lctrlPeriod = s.lctrlPeriod := rfl
@[simp] theorem emitR_deadCause (s : State) (st : Status) (bs : List Byte) :
    (emitR s st bs).deadCause = s.deadCause := rfl
@[simp] theorem emitR_deadInfo (s : State) (st : Status) (bs : List Byte) :
    (emitR s st bs).deadInfo = s.deadInfo := rfl
@[simp] theorem emitR_dropFcs (s : State) (st : Status) (bs : List Byte) : (emitR s st bs).dropFcs = s.dropFcs := rfl
@[simp] theorem emitR_dropFormat (s : State) (st : Status) (bs : List Byte) :
    (emitR s st bs).dropFormat = s.dropFormat := rfl
@[simp] theorem emitR_dropOversize (s : State) (st : Status) (bs : List Byte) :
    (emitR s st bs).dropOversize = s.dropOversize := rfl
@[simp] theorem emitR_dropSeq (s : State) (st : Status) (bs : List Byte) : (emitR s st bs).dropSeq = s.dropSeq := rfl
@[simp] theorem emitR_sw (s : State) (st : Status) (bs : List Byte) : (emitR s st bs).sw = s.sw := rfl
@[simp] theorem emitR_rb (s : State) (st : Status) (bs : List Byte) : (emitR s st bs).rb = s.rb := rfl
@[simp] theorem emitR_app (s : State) (st : Status) (bs : List Byte) : (emitR s st bs).app = s.app := rfl
@[simp] theorem emitR_txbuf (s : State) (st : Status) (bs : List Byte) : (emitR s st bs).txbuf = s.txbuf := rfl
@[simp] theorem emitR_txCur (s : State) (st : Status) (bs : List Byte) : (emitR s st bs).txCur = s.txCur := rfl
@[simp] theorem emitR_events (s : State) (st : Status) (bs : List Byte) : (emitR s st bs).events = s.events := rfl
@[simp] theorem emitR_out (s : State) (st : Status) (bs : List Byte) :
    (emitR s st bs).out = { s.out with respR := some { status := st, bytes := bs } } := rfl
@[simp] theorem emitR_epoch (s : State) (st : Status) (bs : List Byte) : (emitR s st bs).epoch = s.epoch := rfl

/-! ### `emitWire` -/

@[simp] theorem emitWire_build (s : State) (b : Byte) : (emitWire s b).build = s.build := rfl
@[simp] theorem emitWire_sndNext (s : State) (b : Byte) : (emitWire s b).sndNext = s.sndNext := rfl
@[simp] theorem emitWire_sndUna (s : State) (b : Byte) : (emitWire s b).sndUna = s.sndUna := rfl
@[simp] theorem emitWire_rcvExp (s : State) (b : Byte) : (emitWire s b).rcvExp = s.rcvExp := rfl
@[simp] theorem emitWire_phase (s : State) (b : Byte) : (emitWire s b).phase = s.phase := rfl
@[simp] theorem emitWire_frozen (s : State) (b : Byte) : (emitWire s b).frozen = s.frozen := rfl
@[simp] theorem emitWire_closeCause (s : State) (b : Byte) : (emitWire s b).closeCause = s.closeCause := rfl
@[simp] theorem emitWire_now (s : State) (b : Byte) : (emitWire s b).now = s.now := rfl
@[simp] theorem emitWire_lctrlDeadline (s : State) (b : Byte) : (emitWire s b).lctrlDeadline = s.lctrlDeadline := rfl
@[simp] theorem emitWire_ackReq (s : State) (b : Byte) : (emitWire s b).ackReq = s.ackReq := rfl
@[simp] theorem emitWire_lctrlReq (s : State) (b : Byte) : (emitWire s b).lctrlReq = s.lctrlReq := rfl
@[simp] theorem emitWire_finReq (s : State) (b : Byte) : (emitWire s b).finReq = s.finReq := rfl
@[simp] theorem emitWire_rxEn (s : State) (b : Byte) : (emitWire s b).rxEn = s.rxEn := rfl
@[simp] theorem emitWire_rxs (s : State) (b : Byte) : (emitWire s b).rxs = s.rxs := rfl
@[simp] theorem emitWire_rxEsc (s : State) (b : Byte) : (emitWire s b).rxEsc = s.rxEsc := rfl
@[simp] theorem emitWire_rxbuf (s : State) (b : Byte) : (emitWire s b).rxbuf = s.rxbuf := rfl
@[simp] theorem emitWire_rxlen (s : State) (b : Byte) : (emitWire s b).rxlen = s.rxlen := rfl
@[simp] theorem emitWire_pullPend (s : State) (b : Byte) : (emitWire s b).pullPend = s.pullPend := rfl
@[simp] theorem emitWire_pullMax (s : State) (b : Byte) : (emitWire s b).pullMax = s.pullMax := rfl
@[simp] theorem emitWire_pullInf (s : State) (b : Byte) : (emitWire s b).pullInf = s.pullInf := rfl
@[simp] theorem emitWire_pullNowait (s : State) (b : Byte) : (emitWire s b).pullNowait = s.pullNowait := rfl
@[simp] theorem emitWire_pullDeadline (s : State) (b : Byte) : (emitWire s b).pullDeadline = s.pullDeadline := rfl
@[simp] theorem emitWire_irqStatus (s : State) (b : Byte) : (emitWire s b).irqStatus = s.irqStatus := rfl
@[simp] theorem emitWire_irqEnable (s : State) (b : Byte) : (emitWire s b).irqEnable = s.irqEnable := rfl
@[simp] theorem emitWire_localPkt (s : State) (b : Byte) : (emitWire s b).localPkt = s.localPkt := rfl
@[simp] theorem emitWire_localWin (s : State) (b : Byte) : (emitWire s b).localWin = s.localWin := rfl
@[simp] theorem emitWire_baud (s : State) (b : Byte) : (emitWire s b).baud = s.baud := rfl
@[simp] theorem emitWire_effPkt (s : State) (b : Byte) : (emitWire s b).effPkt = s.effPkt := rfl
@[simp] theorem emitWire_effWin (s : State) (b : Byte) : (emitWire s b).effWin = s.effWin := rfl
@[simp] theorem emitWire_rtoInit (s : State) (b : Byte) : (emitWire s b).rtoInit = s.rtoInit := rfl
@[simp] theorem emitWire_rtoMax (s : State) (b : Byte) : (emitWire s b).rtoMax = s.rtoMax := rfl
@[simp] theorem emitWire_retryMax (s : State) (b : Byte) : (emitWire s b).retryMax = s.retryMax := rfl
@[simp] theorem emitWire_lctrlPeriod (s : State) (b : Byte) : (emitWire s b).lctrlPeriod = s.lctrlPeriod := rfl
@[simp] theorem emitWire_deadCause (s : State) (b : Byte) : (emitWire s b).deadCause = s.deadCause := rfl
@[simp] theorem emitWire_deadInfo (s : State) (b : Byte) : (emitWire s b).deadInfo = s.deadInfo := rfl
@[simp] theorem emitWire_dropFcs (s : State) (b : Byte) : (emitWire s b).dropFcs = s.dropFcs := rfl
@[simp] theorem emitWire_dropFormat (s : State) (b : Byte) : (emitWire s b).dropFormat = s.dropFormat := rfl
@[simp] theorem emitWire_dropOversize (s : State) (b : Byte) : (emitWire s b).dropOversize = s.dropOversize := rfl
@[simp] theorem emitWire_dropSeq (s : State) (b : Byte) : (emitWire s b).dropSeq = s.dropSeq := rfl
@[simp] theorem emitWire_sw (s : State) (b : Byte) : (emitWire s b).sw = s.sw := rfl
@[simp] theorem emitWire_rb (s : State) (b : Byte) : (emitWire s b).rb = s.rb := rfl
@[simp] theorem emitWire_app (s : State) (b : Byte) : (emitWire s b).app = s.app := rfl
@[simp] theorem emitWire_txbuf (s : State) (b : Byte) : (emitWire s b).txbuf = s.txbuf := rfl
@[simp] theorem emitWire_txCur (s : State) (b : Byte) : (emitWire s b).txCur = s.txCur := rfl
@[simp] theorem emitWire_events (s : State) (b : Byte) : (emitWire s b).events = s.events := rfl
@[simp] theorem emitWire_out (s : State) (b : Byte) : (emitWire s b).out = { s.out with wire := some b } := rfl
@[simp] theorem emitWire_epoch (s : State) (b : Byte) : (emitWire s b).epoch = s.epoch := rfl

/-! ### `setIrq` -/

@[simp] theorem setIrq_build (s : State) (f : IrqFlag) : (setIrq s f).build = s.build := rfl
@[simp] theorem setIrq_sndNext (s : State) (f : IrqFlag) : (setIrq s f).sndNext = s.sndNext := rfl
@[simp] theorem setIrq_sndUna (s : State) (f : IrqFlag) : (setIrq s f).sndUna = s.sndUna := rfl
@[simp] theorem setIrq_rcvExp (s : State) (f : IrqFlag) : (setIrq s f).rcvExp = s.rcvExp := rfl
@[simp] theorem setIrq_phase (s : State) (f : IrqFlag) : (setIrq s f).phase = s.phase := rfl
@[simp] theorem setIrq_frozen (s : State) (f : IrqFlag) : (setIrq s f).frozen = s.frozen := rfl
@[simp] theorem setIrq_closeCause (s : State) (f : IrqFlag) : (setIrq s f).closeCause = s.closeCause := rfl
@[simp] theorem setIrq_now (s : State) (f : IrqFlag) : (setIrq s f).now = s.now := rfl
@[simp] theorem setIrq_lctrlDeadline (s : State) (f : IrqFlag) : (setIrq s f).lctrlDeadline = s.lctrlDeadline := rfl
@[simp] theorem setIrq_ackReq (s : State) (f : IrqFlag) : (setIrq s f).ackReq = s.ackReq := rfl
@[simp] theorem setIrq_lctrlReq (s : State) (f : IrqFlag) : (setIrq s f).lctrlReq = s.lctrlReq := rfl
@[simp] theorem setIrq_finReq (s : State) (f : IrqFlag) : (setIrq s f).finReq = s.finReq := rfl
@[simp] theorem setIrq_rxEn (s : State) (f : IrqFlag) : (setIrq s f).rxEn = s.rxEn := rfl
@[simp] theorem setIrq_rxs (s : State) (f : IrqFlag) : (setIrq s f).rxs = s.rxs := rfl
@[simp] theorem setIrq_rxEsc (s : State) (f : IrqFlag) : (setIrq s f).rxEsc = s.rxEsc := rfl
@[simp] theorem setIrq_rxbuf (s : State) (f : IrqFlag) : (setIrq s f).rxbuf = s.rxbuf := rfl
@[simp] theorem setIrq_rxlen (s : State) (f : IrqFlag) : (setIrq s f).rxlen = s.rxlen := rfl
@[simp] theorem setIrq_pullPend (s : State) (f : IrqFlag) : (setIrq s f).pullPend = s.pullPend := rfl
@[simp] theorem setIrq_pullMax (s : State) (f : IrqFlag) : (setIrq s f).pullMax = s.pullMax := rfl
@[simp] theorem setIrq_pullInf (s : State) (f : IrqFlag) : (setIrq s f).pullInf = s.pullInf := rfl
@[simp] theorem setIrq_pullNowait (s : State) (f : IrqFlag) : (setIrq s f).pullNowait = s.pullNowait := rfl
@[simp] theorem setIrq_pullDeadline (s : State) (f : IrqFlag) : (setIrq s f).pullDeadline = s.pullDeadline := rfl
@[simp] theorem setIrq_irqStatus (s : State) (f : IrqFlag) : (setIrq s f).irqStatus = s.irqStatus ||| f.bit := rfl
@[simp] theorem setIrq_irqEnable (s : State) (f : IrqFlag) : (setIrq s f).irqEnable = s.irqEnable := rfl
@[simp] theorem setIrq_localPkt (s : State) (f : IrqFlag) : (setIrq s f).localPkt = s.localPkt := rfl
@[simp] theorem setIrq_localWin (s : State) (f : IrqFlag) : (setIrq s f).localWin = s.localWin := rfl
@[simp] theorem setIrq_baud (s : State) (f : IrqFlag) : (setIrq s f).baud = s.baud := rfl
@[simp] theorem setIrq_effPkt (s : State) (f : IrqFlag) : (setIrq s f).effPkt = s.effPkt := rfl
@[simp] theorem setIrq_effWin (s : State) (f : IrqFlag) : (setIrq s f).effWin = s.effWin := rfl
@[simp] theorem setIrq_rtoInit (s : State) (f : IrqFlag) : (setIrq s f).rtoInit = s.rtoInit := rfl
@[simp] theorem setIrq_rtoMax (s : State) (f : IrqFlag) : (setIrq s f).rtoMax = s.rtoMax := rfl
@[simp] theorem setIrq_retryMax (s : State) (f : IrqFlag) : (setIrq s f).retryMax = s.retryMax := rfl
@[simp] theorem setIrq_lctrlPeriod (s : State) (f : IrqFlag) : (setIrq s f).lctrlPeriod = s.lctrlPeriod := rfl
@[simp] theorem setIrq_deadCause (s : State) (f : IrqFlag) : (setIrq s f).deadCause = s.deadCause := rfl
@[simp] theorem setIrq_deadInfo (s : State) (f : IrqFlag) : (setIrq s f).deadInfo = s.deadInfo := rfl
@[simp] theorem setIrq_dropFcs (s : State) (f : IrqFlag) : (setIrq s f).dropFcs = s.dropFcs := rfl
@[simp] theorem setIrq_dropFormat (s : State) (f : IrqFlag) : (setIrq s f).dropFormat = s.dropFormat := rfl
@[simp] theorem setIrq_dropOversize (s : State) (f : IrqFlag) : (setIrq s f).dropOversize = s.dropOversize := rfl
@[simp] theorem setIrq_dropSeq (s : State) (f : IrqFlag) : (setIrq s f).dropSeq = s.dropSeq := rfl
@[simp] theorem setIrq_sw (s : State) (f : IrqFlag) : (setIrq s f).sw = s.sw := rfl
@[simp] theorem setIrq_rb (s : State) (f : IrqFlag) : (setIrq s f).rb = s.rb := rfl
@[simp] theorem setIrq_app (s : State) (f : IrqFlag) : (setIrq s f).app = s.app := rfl
@[simp] theorem setIrq_txbuf (s : State) (f : IrqFlag) : (setIrq s f).txbuf = s.txbuf := rfl
@[simp] theorem setIrq_txCur (s : State) (f : IrqFlag) : (setIrq s f).txCur = s.txCur := rfl
@[simp] theorem setIrq_events (s : State) (f : IrqFlag) : (setIrq s f).events = s.events := rfl
@[simp] theorem setIrq_out (s : State) (f : IrqFlag) : (setIrq s f).out = s.out := rfl
@[simp] theorem setIrq_epoch (s : State) (f : IrqFlag) : (setIrq s f).epoch = s.epoch := rfl

/-! ### `modifySw` -/

@[simp] theorem modifySw_build (s : State) (i : Nat) (f : SwSlot → SwSlot) : (modifySw s i f).build = s.build := rfl
@[simp] theorem modifySw_sndNext (s : State) (i : Nat) (f : SwSlot → SwSlot) :
    (modifySw s i f).sndNext = s.sndNext := rfl
@[simp] theorem modifySw_sndUna (s : State) (i : Nat) (f : SwSlot → SwSlot) :
    (modifySw s i f).sndUna = s.sndUna := rfl
@[simp] theorem modifySw_rcvExp (s : State) (i : Nat) (f : SwSlot → SwSlot) :
    (modifySw s i f).rcvExp = s.rcvExp := rfl
@[simp] theorem modifySw_phase (s : State) (i : Nat) (f : SwSlot → SwSlot) : (modifySw s i f).phase = s.phase := rfl
@[simp] theorem modifySw_frozen (s : State) (i : Nat) (f : SwSlot → SwSlot) :
    (modifySw s i f).frozen = s.frozen := rfl
@[simp] theorem modifySw_closeCause (s : State) (i : Nat) (f : SwSlot → SwSlot) :
    (modifySw s i f).closeCause = s.closeCause := rfl
@[simp] theorem modifySw_now (s : State) (i : Nat) (f : SwSlot → SwSlot) : (modifySw s i f).now = s.now := rfl
@[simp] theorem modifySw_lctrlDeadline (s : State) (i : Nat) (f : SwSlot → SwSlot) :
    (modifySw s i f).lctrlDeadline = s.lctrlDeadline := rfl
@[simp] theorem modifySw_ackReq (s : State) (i : Nat) (f : SwSlot → SwSlot) :
    (modifySw s i f).ackReq = s.ackReq := rfl
@[simp] theorem modifySw_lctrlReq (s : State) (i : Nat) (f : SwSlot → SwSlot) :
    (modifySw s i f).lctrlReq = s.lctrlReq := rfl
@[simp] theorem modifySw_finReq (s : State) (i : Nat) (f : SwSlot → SwSlot) :
    (modifySw s i f).finReq = s.finReq := rfl
@[simp] theorem modifySw_rxEn (s : State) (i : Nat) (f : SwSlot → SwSlot) : (modifySw s i f).rxEn = s.rxEn := rfl
@[simp] theorem modifySw_rxs (s : State) (i : Nat) (f : SwSlot → SwSlot) : (modifySw s i f).rxs = s.rxs := rfl
@[simp] theorem modifySw_rxEsc (s : State) (i : Nat) (f : SwSlot → SwSlot) : (modifySw s i f).rxEsc = s.rxEsc := rfl
@[simp] theorem modifySw_rxbuf (s : State) (i : Nat) (f : SwSlot → SwSlot) : (modifySw s i f).rxbuf = s.rxbuf := rfl
@[simp] theorem modifySw_rxlen (s : State) (i : Nat) (f : SwSlot → SwSlot) : (modifySw s i f).rxlen = s.rxlen := rfl
@[simp] theorem modifySw_pullPend (s : State) (i : Nat) (f : SwSlot → SwSlot) :
    (modifySw s i f).pullPend = s.pullPend := rfl
@[simp] theorem modifySw_pullMax (s : State) (i : Nat) (f : SwSlot → SwSlot) :
    (modifySw s i f).pullMax = s.pullMax := rfl
@[simp] theorem modifySw_pullInf (s : State) (i : Nat) (f : SwSlot → SwSlot) :
    (modifySw s i f).pullInf = s.pullInf := rfl
@[simp] theorem modifySw_pullNowait (s : State) (i : Nat) (f : SwSlot → SwSlot) :
    (modifySw s i f).pullNowait = s.pullNowait := rfl
@[simp] theorem modifySw_pullDeadline (s : State) (i : Nat) (f : SwSlot → SwSlot) :
    (modifySw s i f).pullDeadline = s.pullDeadline := rfl
@[simp] theorem modifySw_irqStatus (s : State) (i : Nat) (f : SwSlot → SwSlot) :
    (modifySw s i f).irqStatus = s.irqStatus := rfl
@[simp] theorem modifySw_irqEnable (s : State) (i : Nat) (f : SwSlot → SwSlot) :
    (modifySw s i f).irqEnable = s.irqEnable := rfl
@[simp] theorem modifySw_localPkt (s : State) (i : Nat) (f : SwSlot → SwSlot) :
    (modifySw s i f).localPkt = s.localPkt := rfl
@[simp] theorem modifySw_localWin (s : State) (i : Nat) (f : SwSlot → SwSlot) :
    (modifySw s i f).localWin = s.localWin := rfl
@[simp] theorem modifySw_baud (s : State) (i : Nat) (f : SwSlot → SwSlot) : (modifySw s i f).baud = s.baud := rfl
@[simp] theorem modifySw_effPkt (s : State) (i : Nat) (f : SwSlot → SwSlot) :
    (modifySw s i f).effPkt = s.effPkt := rfl
@[simp] theorem modifySw_effWin (s : State) (i : Nat) (f : SwSlot → SwSlot) :
    (modifySw s i f).effWin = s.effWin := rfl
@[simp] theorem modifySw_rtoInit (s : State) (i : Nat) (f : SwSlot → SwSlot) :
    (modifySw s i f).rtoInit = s.rtoInit := rfl
@[simp] theorem modifySw_rtoMax (s : State) (i : Nat) (f : SwSlot → SwSlot) :
    (modifySw s i f).rtoMax = s.rtoMax := rfl
@[simp] theorem modifySw_retryMax (s : State) (i : Nat) (f : SwSlot → SwSlot) :
    (modifySw s i f).retryMax = s.retryMax := rfl
@[simp] theorem modifySw_lctrlPeriod (s : State) (i : Nat) (f : SwSlot → SwSlot) :
    (modifySw s i f).lctrlPeriod = s.lctrlPeriod := rfl
@[simp] theorem modifySw_deadCause (s : State) (i : Nat) (f : SwSlot → SwSlot) :
    (modifySw s i f).deadCause = s.deadCause := rfl
@[simp] theorem modifySw_deadInfo (s : State) (i : Nat) (f : SwSlot → SwSlot) :
    (modifySw s i f).deadInfo = s.deadInfo := rfl
@[simp] theorem modifySw_dropFcs (s : State) (i : Nat) (f : SwSlot → SwSlot) :
    (modifySw s i f).dropFcs = s.dropFcs := rfl
@[simp] theorem modifySw_dropFormat (s : State) (i : Nat) (f : SwSlot → SwSlot) :
    (modifySw s i f).dropFormat = s.dropFormat := rfl
@[simp] theorem modifySw_dropOversize (s : State) (i : Nat) (f : SwSlot → SwSlot) :
    (modifySw s i f).dropOversize = s.dropOversize := rfl
@[simp] theorem modifySw_dropSeq (s : State) (i : Nat) (f : SwSlot → SwSlot) :
    (modifySw s i f).dropSeq = s.dropSeq := rfl
@[simp] theorem modifySw_sw (s : State) (i : Nat) (f : SwSlot → SwSlot) : (modifySw s i f).sw = s.sw.modify i f := rfl
@[simp] theorem modifySw_rb (s : State) (i : Nat) (f : SwSlot → SwSlot) : (modifySw s i f).rb = s.rb := rfl
@[simp] theorem modifySw_app (s : State) (i : Nat) (f : SwSlot → SwSlot) : (modifySw s i f).app = s.app := rfl
@[simp] theorem modifySw_txbuf (s : State) (i : Nat) (f : SwSlot → SwSlot) : (modifySw s i f).txbuf = s.txbuf := rfl
@[simp] theorem modifySw_txCur (s : State) (i : Nat) (f : SwSlot → SwSlot) : (modifySw s i f).txCur = s.txCur := rfl
@[simp] theorem modifySw_events (s : State) (i : Nat) (f : SwSlot → SwSlot) :
    (modifySw s i f).events = s.events := rfl
@[simp] theorem modifySw_out (s : State) (i : Nat) (f : SwSlot → SwSlot) : (modifySw s i f).out = s.out := rfl
@[simp] theorem modifySw_epoch (s : State) (i : Nat) (f : SwSlot → SwSlot) : (modifySw s i f).epoch = s.epoch := rfl

/-! ### `modifyRb` -/

@[simp] theorem modifyRb_build (s : State) (i : Nat) (f : RbSlot → RbSlot) : (modifyRb s i f).build = s.build := rfl
@[simp] theorem modifyRb_sndNext (s : State) (i : Nat) (f : RbSlot → RbSlot) :
    (modifyRb s i f).sndNext = s.sndNext := rfl
@[simp] theorem modifyRb_sndUna (s : State) (i : Nat) (f : RbSlot → RbSlot) :
    (modifyRb s i f).sndUna = s.sndUna := rfl
@[simp] theorem modifyRb_rcvExp (s : State) (i : Nat) (f : RbSlot → RbSlot) :
    (modifyRb s i f).rcvExp = s.rcvExp := rfl
@[simp] theorem modifyRb_phase (s : State) (i : Nat) (f : RbSlot → RbSlot) : (modifyRb s i f).phase = s.phase := rfl
@[simp] theorem modifyRb_frozen (s : State) (i : Nat) (f : RbSlot → RbSlot) :
    (modifyRb s i f).frozen = s.frozen := rfl
@[simp] theorem modifyRb_closeCause (s : State) (i : Nat) (f : RbSlot → RbSlot) :
    (modifyRb s i f).closeCause = s.closeCause := rfl
@[simp] theorem modifyRb_now (s : State) (i : Nat) (f : RbSlot → RbSlot) : (modifyRb s i f).now = s.now := rfl
@[simp] theorem modifyRb_lctrlDeadline (s : State) (i : Nat) (f : RbSlot → RbSlot) :
    (modifyRb s i f).lctrlDeadline = s.lctrlDeadline := rfl
@[simp] theorem modifyRb_ackReq (s : State) (i : Nat) (f : RbSlot → RbSlot) :
    (modifyRb s i f).ackReq = s.ackReq := rfl
@[simp] theorem modifyRb_lctrlReq (s : State) (i : Nat) (f : RbSlot → RbSlot) :
    (modifyRb s i f).lctrlReq = s.lctrlReq := rfl
@[simp] theorem modifyRb_finReq (s : State) (i : Nat) (f : RbSlot → RbSlot) :
    (modifyRb s i f).finReq = s.finReq := rfl
@[simp] theorem modifyRb_rxEn (s : State) (i : Nat) (f : RbSlot → RbSlot) : (modifyRb s i f).rxEn = s.rxEn := rfl
@[simp] theorem modifyRb_rxs (s : State) (i : Nat) (f : RbSlot → RbSlot) : (modifyRb s i f).rxs = s.rxs := rfl
@[simp] theorem modifyRb_rxEsc (s : State) (i : Nat) (f : RbSlot → RbSlot) : (modifyRb s i f).rxEsc = s.rxEsc := rfl
@[simp] theorem modifyRb_rxbuf (s : State) (i : Nat) (f : RbSlot → RbSlot) : (modifyRb s i f).rxbuf = s.rxbuf := rfl
@[simp] theorem modifyRb_rxlen (s : State) (i : Nat) (f : RbSlot → RbSlot) : (modifyRb s i f).rxlen = s.rxlen := rfl
@[simp] theorem modifyRb_pullPend (s : State) (i : Nat) (f : RbSlot → RbSlot) :
    (modifyRb s i f).pullPend = s.pullPend := rfl
@[simp] theorem modifyRb_pullMax (s : State) (i : Nat) (f : RbSlot → RbSlot) :
    (modifyRb s i f).pullMax = s.pullMax := rfl
@[simp] theorem modifyRb_pullInf (s : State) (i : Nat) (f : RbSlot → RbSlot) :
    (modifyRb s i f).pullInf = s.pullInf := rfl
@[simp] theorem modifyRb_pullNowait (s : State) (i : Nat) (f : RbSlot → RbSlot) :
    (modifyRb s i f).pullNowait = s.pullNowait := rfl
@[simp] theorem modifyRb_pullDeadline (s : State) (i : Nat) (f : RbSlot → RbSlot) :
    (modifyRb s i f).pullDeadline = s.pullDeadline := rfl
@[simp] theorem modifyRb_irqStatus (s : State) (i : Nat) (f : RbSlot → RbSlot) :
    (modifyRb s i f).irqStatus = s.irqStatus := rfl
@[simp] theorem modifyRb_irqEnable (s : State) (i : Nat) (f : RbSlot → RbSlot) :
    (modifyRb s i f).irqEnable = s.irqEnable := rfl
@[simp] theorem modifyRb_localPkt (s : State) (i : Nat) (f : RbSlot → RbSlot) :
    (modifyRb s i f).localPkt = s.localPkt := rfl
@[simp] theorem modifyRb_localWin (s : State) (i : Nat) (f : RbSlot → RbSlot) :
    (modifyRb s i f).localWin = s.localWin := rfl
@[simp] theorem modifyRb_baud (s : State) (i : Nat) (f : RbSlot → RbSlot) : (modifyRb s i f).baud = s.baud := rfl
@[simp] theorem modifyRb_effPkt (s : State) (i : Nat) (f : RbSlot → RbSlot) :
    (modifyRb s i f).effPkt = s.effPkt := rfl
@[simp] theorem modifyRb_effWin (s : State) (i : Nat) (f : RbSlot → RbSlot) :
    (modifyRb s i f).effWin = s.effWin := rfl
@[simp] theorem modifyRb_rtoInit (s : State) (i : Nat) (f : RbSlot → RbSlot) :
    (modifyRb s i f).rtoInit = s.rtoInit := rfl
@[simp] theorem modifyRb_rtoMax (s : State) (i : Nat) (f : RbSlot → RbSlot) :
    (modifyRb s i f).rtoMax = s.rtoMax := rfl
@[simp] theorem modifyRb_retryMax (s : State) (i : Nat) (f : RbSlot → RbSlot) :
    (modifyRb s i f).retryMax = s.retryMax := rfl
@[simp] theorem modifyRb_lctrlPeriod (s : State) (i : Nat) (f : RbSlot → RbSlot) :
    (modifyRb s i f).lctrlPeriod = s.lctrlPeriod := rfl
@[simp] theorem modifyRb_deadCause (s : State) (i : Nat) (f : RbSlot → RbSlot) :
    (modifyRb s i f).deadCause = s.deadCause := rfl
@[simp] theorem modifyRb_deadInfo (s : State) (i : Nat) (f : RbSlot → RbSlot) :
    (modifyRb s i f).deadInfo = s.deadInfo := rfl
@[simp] theorem modifyRb_dropFcs (s : State) (i : Nat) (f : RbSlot → RbSlot) :
    (modifyRb s i f).dropFcs = s.dropFcs := rfl
@[simp] theorem modifyRb_dropFormat (s : State) (i : Nat) (f : RbSlot → RbSlot) :
    (modifyRb s i f).dropFormat = s.dropFormat := rfl
@[simp] theorem modifyRb_dropOversize (s : State) (i : Nat) (f : RbSlot → RbSlot) :
    (modifyRb s i f).dropOversize = s.dropOversize := rfl
@[simp] theorem modifyRb_dropSeq (s : State) (i : Nat) (f : RbSlot → RbSlot) :
    (modifyRb s i f).dropSeq = s.dropSeq := rfl
@[simp] theorem modifyRb_sw (s : State) (i : Nat) (f : RbSlot → RbSlot) : (modifyRb s i f).sw = s.sw := rfl
@[simp] theorem modifyRb_rb (s : State) (i : Nat) (f : RbSlot → RbSlot) : (modifyRb s i f).rb = s.rb.modify i f := rfl
@[simp] theorem modifyRb_app (s : State) (i : Nat) (f : RbSlot → RbSlot) : (modifyRb s i f).app = s.app := rfl
@[simp] theorem modifyRb_txbuf (s : State) (i : Nat) (f : RbSlot → RbSlot) : (modifyRb s i f).txbuf = s.txbuf := rfl
@[simp] theorem modifyRb_txCur (s : State) (i : Nat) (f : RbSlot → RbSlot) : (modifyRb s i f).txCur = s.txCur := rfl
@[simp] theorem modifyRb_events (s : State) (i : Nat) (f : RbSlot → RbSlot) :
    (modifyRb s i f).events = s.events := rfl
@[simp] theorem modifyRb_out (s : State) (i : Nat) (f : RbSlot → RbSlot) : (modifyRb s i f).out = s.out := rfl
@[simp] theorem modifyRb_epoch (s : State) (i : Nat) (f : RbSlot → RbSlot) : (modifyRb s i f).epoch = s.epoch := rfl

/-! ### `modifyOutstanding` -/

@[simp] theorem modifyOutstanding_build (s : State) (n : Nat) (f : SwSlot → SwSlot) :
    (modifyOutstanding s n f).build = s.build := rfl
@[simp] theorem modifyOutstanding_sndNext (s : State) (n : Nat) (f : SwSlot → SwSlot) :
    (modifyOutstanding s n f).sndNext = s.sndNext := rfl
@[simp] theorem modifyOutstanding_sndUna (s : State) (n : Nat) (f : SwSlot → SwSlot) :
    (modifyOutstanding s n f).sndUna = s.sndUna := rfl
@[simp] theorem modifyOutstanding_rcvExp (s : State) (n : Nat) (f : SwSlot → SwSlot) :
    (modifyOutstanding s n f).rcvExp = s.rcvExp := rfl
@[simp] theorem modifyOutstanding_phase (s : State) (n : Nat) (f : SwSlot → SwSlot) :
    (modifyOutstanding s n f).phase = s.phase := rfl
@[simp] theorem modifyOutstanding_frozen (s : State) (n : Nat) (f : SwSlot → SwSlot) :
    (modifyOutstanding s n f).frozen = s.frozen := rfl
@[simp] theorem modifyOutstanding_closeCause (s : State) (n : Nat) (f : SwSlot → SwSlot) :
    (modifyOutstanding s n f).closeCause = s.closeCause := rfl
@[simp] theorem modifyOutstanding_now (s : State) (n : Nat) (f : SwSlot → SwSlot) :
    (modifyOutstanding s n f).now = s.now := rfl
@[simp] theorem modifyOutstanding_lctrlDeadline (s : State) (n : Nat) (f : SwSlot → SwSlot) :
    (modifyOutstanding s n f).lctrlDeadline = s.lctrlDeadline := rfl
@[simp] theorem modifyOutstanding_ackReq (s : State) (n : Nat) (f : SwSlot → SwSlot) :
    (modifyOutstanding s n f).ackReq = s.ackReq := rfl
@[simp] theorem modifyOutstanding_lctrlReq (s : State) (n : Nat) (f : SwSlot → SwSlot) :
    (modifyOutstanding s n f).lctrlReq = s.lctrlReq := rfl
@[simp] theorem modifyOutstanding_finReq (s : State) (n : Nat) (f : SwSlot → SwSlot) :
    (modifyOutstanding s n f).finReq = s.finReq := rfl
@[simp] theorem modifyOutstanding_rxEn (s : State) (n : Nat) (f : SwSlot → SwSlot) :
    (modifyOutstanding s n f).rxEn = s.rxEn := rfl
@[simp] theorem modifyOutstanding_rxs (s : State) (n : Nat) (f : SwSlot → SwSlot) :
    (modifyOutstanding s n f).rxs = s.rxs := rfl
@[simp] theorem modifyOutstanding_rxEsc (s : State) (n : Nat) (f : SwSlot → SwSlot) :
    (modifyOutstanding s n f).rxEsc = s.rxEsc := rfl
@[simp] theorem modifyOutstanding_rxbuf (s : State) (n : Nat) (f : SwSlot → SwSlot) :
    (modifyOutstanding s n f).rxbuf = s.rxbuf := rfl
@[simp] theorem modifyOutstanding_rxlen (s : State) (n : Nat) (f : SwSlot → SwSlot) :
    (modifyOutstanding s n f).rxlen = s.rxlen := rfl
@[simp] theorem modifyOutstanding_pullPend (s : State) (n : Nat) (f : SwSlot → SwSlot) :
    (modifyOutstanding s n f).pullPend = s.pullPend := rfl
@[simp] theorem modifyOutstanding_pullMax (s : State) (n : Nat) (f : SwSlot → SwSlot) :
    (modifyOutstanding s n f).pullMax = s.pullMax := rfl
@[simp] theorem modifyOutstanding_pullInf (s : State) (n : Nat) (f : SwSlot → SwSlot) :
    (modifyOutstanding s n f).pullInf = s.pullInf := rfl
@[simp] theorem modifyOutstanding_pullNowait (s : State) (n : Nat) (f : SwSlot → SwSlot) :
    (modifyOutstanding s n f).pullNowait = s.pullNowait := rfl
@[simp] theorem modifyOutstanding_pullDeadline (s : State) (n : Nat) (f : SwSlot → SwSlot) :
    (modifyOutstanding s n f).pullDeadline = s.pullDeadline := rfl
@[simp] theorem modifyOutstanding_irqStatus (s : State) (n : Nat) (f : SwSlot → SwSlot) :
    (modifyOutstanding s n f).irqStatus = s.irqStatus := rfl
@[simp] theorem modifyOutstanding_irqEnable (s : State) (n : Nat) (f : SwSlot → SwSlot) :
    (modifyOutstanding s n f).irqEnable = s.irqEnable := rfl
@[simp] theorem modifyOutstanding_localPkt (s : State) (n : Nat) (f : SwSlot → SwSlot) :
    (modifyOutstanding s n f).localPkt = s.localPkt := rfl
@[simp] theorem modifyOutstanding_localWin (s : State) (n : Nat) (f : SwSlot → SwSlot) :
    (modifyOutstanding s n f).localWin = s.localWin := rfl
@[simp] theorem modifyOutstanding_baud (s : State) (n : Nat) (f : SwSlot → SwSlot) :
    (modifyOutstanding s n f).baud = s.baud := rfl
@[simp] theorem modifyOutstanding_effPkt (s : State) (n : Nat) (f : SwSlot → SwSlot) :
    (modifyOutstanding s n f).effPkt = s.effPkt := rfl
@[simp] theorem modifyOutstanding_effWin (s : State) (n : Nat) (f : SwSlot → SwSlot) :
    (modifyOutstanding s n f).effWin = s.effWin := rfl
@[simp] theorem modifyOutstanding_rtoInit (s : State) (n : Nat) (f : SwSlot → SwSlot) :
    (modifyOutstanding s n f).rtoInit = s.rtoInit := rfl
@[simp] theorem modifyOutstanding_rtoMax (s : State) (n : Nat) (f : SwSlot → SwSlot) :
    (modifyOutstanding s n f).rtoMax = s.rtoMax := rfl
@[simp] theorem modifyOutstanding_retryMax (s : State) (n : Nat) (f : SwSlot → SwSlot) :
    (modifyOutstanding s n f).retryMax = s.retryMax := rfl
@[simp] theorem modifyOutstanding_lctrlPeriod (s : State) (n : Nat) (f : SwSlot → SwSlot) :
    (modifyOutstanding s n f).lctrlPeriod = s.lctrlPeriod := rfl
@[simp] theorem modifyOutstanding_deadCause (s : State) (n : Nat) (f : SwSlot → SwSlot) :
    (modifyOutstanding s n f).deadCause = s.deadCause := rfl
@[simp] theorem modifyOutstanding_deadInfo (s : State) (n : Nat) (f : SwSlot → SwSlot) :
    (modifyOutstanding s n f).deadInfo = s.deadInfo := rfl
@[simp] theorem modifyOutstanding_dropFcs (s : State) (n : Nat) (f : SwSlot → SwSlot) :
    (modifyOutstanding s n f).dropFcs = s.dropFcs := rfl
@[simp] theorem modifyOutstanding_dropFormat (s : State) (n : Nat) (f : SwSlot → SwSlot) :
    (modifyOutstanding s n f).dropFormat = s.dropFormat := rfl
@[simp] theorem modifyOutstanding_dropOversize (s : State) (n : Nat) (f : SwSlot → SwSlot) :
    (modifyOutstanding s n f).dropOversize = s.dropOversize := rfl
@[simp] theorem modifyOutstanding_dropSeq (s : State) (n : Nat) (f : SwSlot → SwSlot) :
    (modifyOutstanding s n f).dropSeq = s.dropSeq := rfl
@[simp] theorem modifyOutstanding_sw (s : State) (n : Nat) (f : SwSlot → SwSlot) :
    (modifyOutstanding s n f).sw = (List.range n).foldl (fun sw k => sw.modify (outIndex s k) f) s.sw := rfl
@[simp] theorem modifyOutstanding_rb (s : State) (n : Nat) (f : SwSlot → SwSlot) :
    (modifyOutstanding s n f).rb = s.rb := rfl
@[simp] theorem modifyOutstanding_app (s : State) (n : Nat) (f : SwSlot → SwSlot) :
    (modifyOutstanding s n f).app = s.app := rfl
@[simp] theorem modifyOutstanding_txbuf (s : State) (n : Nat) (f : SwSlot → SwSlot) :
    (modifyOutstanding s n f).txbuf = s.txbuf := rfl
@[simp] theorem modifyOutstanding_txCur (s : State) (n : Nat) (f : SwSlot → SwSlot) :
    (modifyOutstanding s n f).txCur = s.txCur := rfl
@[simp] theorem modifyOutstanding_events (s : State) (n : Nat) (f : SwSlot → SwSlot) :
    (modifyOutstanding s n f).events = s.events := rfl
@[simp] theorem modifyOutstanding_out (s : State) (n : Nat) (f : SwSlot → SwSlot) :
    (modifyOutstanding s n f).out = s.out := rfl
@[simp] theorem modifyOutstanding_epoch (s : State) (n : Nat) (f : SwSlot → SwSlot) :
    (modifyOutstanding s n f).epoch = s.epoch := rfl

/-! ### `loadFrame` -/

@[simp] theorem loadFrame_build (s : State) (ty sq a : Byte) (p : List Byte) (c : TxCur) :
    (loadFrame s ty sq a p c).build = s.build := rfl
@[simp] theorem loadFrame_sndNext (s : State) (ty sq a : Byte) (p : List Byte) (c : TxCur) :
    (loadFrame s ty sq a p c).sndNext = s.sndNext := rfl
@[simp] theorem loadFrame_sndUna (s : State) (ty sq a : Byte) (p : List Byte) (c : TxCur) :
    (loadFrame s ty sq a p c).sndUna = s.sndUna := rfl
@[simp] theorem loadFrame_rcvExp (s : State) (ty sq a : Byte) (p : List Byte) (c : TxCur) :
    (loadFrame s ty sq a p c).rcvExp = s.rcvExp := rfl
@[simp] theorem loadFrame_phase (s : State) (ty sq a : Byte) (p : List Byte) (c : TxCur) :
    (loadFrame s ty sq a p c).phase = s.phase := rfl
@[simp] theorem loadFrame_frozen (s : State) (ty sq a : Byte) (p : List Byte) (c : TxCur) :
    (loadFrame s ty sq a p c).frozen = s.frozen := rfl
@[simp] theorem loadFrame_closeCause (s : State) (ty sq a : Byte) (p : List Byte) (c : TxCur) :
    (loadFrame s ty sq a p c).closeCause = s.closeCause := rfl
@[simp] theorem loadFrame_now (s : State) (ty sq a : Byte) (p : List Byte) (c : TxCur) :
    (loadFrame s ty sq a p c).now = s.now := rfl
@[simp] theorem loadFrame_lctrlDeadline (s : State) (ty sq a : Byte) (p : List Byte) (c : TxCur) :
    (loadFrame s ty sq a p c).lctrlDeadline = s.lctrlDeadline := rfl
@[simp] theorem loadFrame_ackReq (s : State) (ty sq a : Byte) (p : List Byte) (c : TxCur) :
    (loadFrame s ty sq a p c).ackReq = s.ackReq := rfl
@[simp] theorem loadFrame_lctrlReq (s : State) (ty sq a : Byte) (p : List Byte) (c : TxCur) :
    (loadFrame s ty sq a p c).lctrlReq = s.lctrlReq := rfl
@[simp] theorem loadFrame_finReq (s : State) (ty sq a : Byte) (p : List Byte) (c : TxCur) :
    (loadFrame s ty sq a p c).finReq = s.finReq := rfl
@[simp] theorem loadFrame_rxEn (s : State) (ty sq a : Byte) (p : List Byte) (c : TxCur) :
    (loadFrame s ty sq a p c).rxEn = s.rxEn := rfl
@[simp] theorem loadFrame_rxs (s : State) (ty sq a : Byte) (p : List Byte) (c : TxCur) :
    (loadFrame s ty sq a p c).rxs = s.rxs := rfl
@[simp] theorem loadFrame_rxEsc (s : State) (ty sq a : Byte) (p : List Byte) (c : TxCur) :
    (loadFrame s ty sq a p c).rxEsc = s.rxEsc := rfl
@[simp] theorem loadFrame_rxbuf (s : State) (ty sq a : Byte) (p : List Byte) (c : TxCur) :
    (loadFrame s ty sq a p c).rxbuf = s.rxbuf := rfl
@[simp] theorem loadFrame_rxlen (s : State) (ty sq a : Byte) (p : List Byte) (c : TxCur) :
    (loadFrame s ty sq a p c).rxlen = s.rxlen := rfl
@[simp] theorem loadFrame_pullPend (s : State) (ty sq a : Byte) (p : List Byte) (c : TxCur) :
    (loadFrame s ty sq a p c).pullPend = s.pullPend := rfl
@[simp] theorem loadFrame_pullMax (s : State) (ty sq a : Byte) (p : List Byte) (c : TxCur) :
    (loadFrame s ty sq a p c).pullMax = s.pullMax := rfl
@[simp] theorem loadFrame_pullInf (s : State) (ty sq a : Byte) (p : List Byte) (c : TxCur) :
    (loadFrame s ty sq a p c).pullInf = s.pullInf := rfl
@[simp] theorem loadFrame_pullNowait (s : State) (ty sq a : Byte) (p : List Byte) (c : TxCur) :
    (loadFrame s ty sq a p c).pullNowait = s.pullNowait := rfl
@[simp] theorem loadFrame_pullDeadline (s : State) (ty sq a : Byte) (p : List Byte) (c : TxCur) :
    (loadFrame s ty sq a p c).pullDeadline = s.pullDeadline := rfl
@[simp] theorem loadFrame_irqStatus (s : State) (ty sq a : Byte) (p : List Byte) (c : TxCur) :
    (loadFrame s ty sq a p c).irqStatus = s.irqStatus := rfl
@[simp] theorem loadFrame_irqEnable (s : State) (ty sq a : Byte) (p : List Byte) (c : TxCur) :
    (loadFrame s ty sq a p c).irqEnable = s.irqEnable := rfl
@[simp] theorem loadFrame_localPkt (s : State) (ty sq a : Byte) (p : List Byte) (c : TxCur) :
    (loadFrame s ty sq a p c).localPkt = s.localPkt := rfl
@[simp] theorem loadFrame_localWin (s : State) (ty sq a : Byte) (p : List Byte) (c : TxCur) :
    (loadFrame s ty sq a p c).localWin = s.localWin := rfl
@[simp] theorem loadFrame_baud (s : State) (ty sq a : Byte) (p : List Byte) (c : TxCur) :
    (loadFrame s ty sq a p c).baud = s.baud := rfl
@[simp] theorem loadFrame_effPkt (s : State) (ty sq a : Byte) (p : List Byte) (c : TxCur) :
    (loadFrame s ty sq a p c).effPkt = s.effPkt := rfl
@[simp] theorem loadFrame_effWin (s : State) (ty sq a : Byte) (p : List Byte) (c : TxCur) :
    (loadFrame s ty sq a p c).effWin = s.effWin := rfl
@[simp] theorem loadFrame_rtoInit (s : State) (ty sq a : Byte) (p : List Byte) (c : TxCur) :
    (loadFrame s ty sq a p c).rtoInit = s.rtoInit := rfl
@[simp] theorem loadFrame_rtoMax (s : State) (ty sq a : Byte) (p : List Byte) (c : TxCur) :
    (loadFrame s ty sq a p c).rtoMax = s.rtoMax := rfl
@[simp] theorem loadFrame_retryMax (s : State) (ty sq a : Byte) (p : List Byte) (c : TxCur) :
    (loadFrame s ty sq a p c).retryMax = s.retryMax := rfl
@[simp] theorem loadFrame_lctrlPeriod (s : State) (ty sq a : Byte) (p : List Byte) (c : TxCur) :
    (loadFrame s ty sq a p c).lctrlPeriod = s.lctrlPeriod := rfl
@[simp] theorem loadFrame_deadCause (s : State) (ty sq a : Byte) (p : List Byte) (c : TxCur) :
    (loadFrame s ty sq a p c).deadCause = s.deadCause := rfl
@[simp] theorem loadFrame_deadInfo (s : State) (ty sq a : Byte) (p : List Byte) (c : TxCur) :
    (loadFrame s ty sq a p c).deadInfo = s.deadInfo := rfl
@[simp] theorem loadFrame_dropFcs (s : State) (ty sq a : Byte) (p : List Byte) (c : TxCur) :
    (loadFrame s ty sq a p c).dropFcs = s.dropFcs := rfl
@[simp] theorem loadFrame_dropFormat (s : State) (ty sq a : Byte) (p : List Byte) (c : TxCur) :
    (loadFrame s ty sq a p c).dropFormat = s.dropFormat := rfl
@[simp] theorem loadFrame_dropOversize (s : State) (ty sq a : Byte) (p : List Byte) (c : TxCur) :
    (loadFrame s ty sq a p c).dropOversize = s.dropOversize := rfl
@[simp] theorem loadFrame_dropSeq (s : State) (ty sq a : Byte) (p : List Byte) (c : TxCur) :
    (loadFrame s ty sq a p c).dropSeq = s.dropSeq := rfl
@[simp] theorem loadFrame_sw (s : State) (ty sq a : Byte) (p : List Byte) (c : TxCur) :
    (loadFrame s ty sq a p c).sw = s.sw := rfl
@[simp] theorem loadFrame_rb (s : State) (ty sq a : Byte) (p : List Byte) (c : TxCur) :
    (loadFrame s ty sq a p c).rb = s.rb := rfl
@[simp] theorem loadFrame_app (s : State) (ty sq a : Byte) (p : List Byte) (c : TxCur) :
    (loadFrame s ty sq a p c).app = s.app := rfl
@[simp] theorem loadFrame_txbuf (s : State) (ty sq a : Byte) (p : List Byte) (c : TxCur) :
    (loadFrame s ty sq a p c).txbuf = encodeFrame ty sq a p := rfl
@[simp] theorem loadFrame_txCur (s : State) (ty sq a : Byte) (p : List Byte) (c : TxCur) :
    (loadFrame s ty sq a p c).txCur = c := rfl
@[simp] theorem loadFrame_events (s : State) (ty sq a : Byte) (p : List Byte) (c : TxCur) :
    (loadFrame s ty sq a p c).events = s.events := rfl
@[simp] theorem loadFrame_out (s : State) (ty sq a : Byte) (p : List Byte) (c : TxCur) :
    (loadFrame s ty sq a p c).out = s.out := rfl
@[simp] theorem loadFrame_epoch (s : State) (ty sq a : Byte) (p : List Byte) (c : TxCur) :
    (loadFrame s ty sq a p c).epoch = s.epoch := rfl

/-! ### `openFrame` -/

@[simp] theorem openFrame_build (s : State) : (openFrame s).build = s.build := rfl
@[simp] theorem openFrame_sndNext (s : State) : (openFrame s).sndNext = s.sndNext := rfl
@[simp] theorem openFrame_sndUna (s : State) : (openFrame s).sndUna = s.sndUna := rfl
@[simp] theorem openFrame_rcvExp (s : State) : (openFrame s).rcvExp = s.rcvExp := rfl
@[simp] theorem openFrame_phase (s : State) : (openFrame s).phase = s.phase := rfl
@[simp] theorem openFrame_frozen (s : State) : (openFrame s).frozen = s.frozen := rfl
@[simp] theorem openFrame_closeCause (s : State) : (openFrame s).closeCause = s.closeCause := rfl
@[simp] theorem openFrame_now (s : State) : (openFrame s).now = s.now := rfl
@[simp] theorem openFrame_lctrlDeadline (s : State) : (openFrame s).lctrlDeadline = s.lctrlDeadline := rfl
@[simp] theorem openFrame_ackReq (s : State) : (openFrame s).ackReq = s.ackReq := rfl
@[simp] theorem openFrame_lctrlReq (s : State) : (openFrame s).lctrlReq = s.lctrlReq := rfl
@[simp] theorem openFrame_finReq (s : State) : (openFrame s).finReq = s.finReq := rfl
@[simp] theorem openFrame_rxEn (s : State) : (openFrame s).rxEn = s.rxEn := rfl
@[simp] theorem openFrame_rxs (s : State) : (openFrame s).rxs = .inframe := rfl
@[simp] theorem openFrame_rxEsc (s : State) : (openFrame s).rxEsc = false := rfl
@[simp] theorem openFrame_rxbuf (s : State) : (openFrame s).rxbuf = s.rxbuf := rfl
@[simp] theorem openFrame_rxlen (s : State) : (openFrame s).rxlen = 0 := rfl
@[simp] theorem openFrame_pullPend (s : State) : (openFrame s).pullPend = s.pullPend := rfl
@[simp] theorem openFrame_pullMax (s : State) : (openFrame s).pullMax = s.pullMax := rfl
@[simp] theorem openFrame_pullInf (s : State) : (openFrame s).pullInf = s.pullInf := rfl
@[simp] theorem openFrame_pullNowait (s : State) : (openFrame s).pullNowait = s.pullNowait := rfl
@[simp] theorem openFrame_pullDeadline (s : State) : (openFrame s).pullDeadline = s.pullDeadline := rfl
@[simp] theorem openFrame_irqStatus (s : State) : (openFrame s).irqStatus = s.irqStatus := rfl
@[simp] theorem openFrame_irqEnable (s : State) : (openFrame s).irqEnable = s.irqEnable := rfl
@[simp] theorem openFrame_localPkt (s : State) : (openFrame s).localPkt = s.localPkt := rfl
@[simp] theorem openFrame_localWin (s : State) : (openFrame s).localWin = s.localWin := rfl
@[simp] theorem openFrame_baud (s : State) : (openFrame s).baud = s.baud := rfl
@[simp] theorem openFrame_effPkt (s : State) : (openFrame s).effPkt = s.effPkt := rfl
@[simp] theorem openFrame_effWin (s : State) : (openFrame s).effWin = s.effWin := rfl
@[simp] theorem openFrame_rtoInit (s : State) : (openFrame s).rtoInit = s.rtoInit := rfl
@[simp] theorem openFrame_rtoMax (s : State) : (openFrame s).rtoMax = s.rtoMax := rfl
@[simp] theorem openFrame_retryMax (s : State) : (openFrame s).retryMax = s.retryMax := rfl
@[simp] theorem openFrame_lctrlPeriod (s : State) : (openFrame s).lctrlPeriod = s.lctrlPeriod := rfl
@[simp] theorem openFrame_deadCause (s : State) : (openFrame s).deadCause = s.deadCause := rfl
@[simp] theorem openFrame_deadInfo (s : State) : (openFrame s).deadInfo = s.deadInfo := rfl
@[simp] theorem openFrame_dropFcs (s : State) : (openFrame s).dropFcs = s.dropFcs := rfl
@[simp] theorem openFrame_dropFormat (s : State) : (openFrame s).dropFormat = s.dropFormat := rfl
@[simp] theorem openFrame_dropOversize (s : State) : (openFrame s).dropOversize = s.dropOversize := rfl
@[simp] theorem openFrame_dropSeq (s : State) : (openFrame s).dropSeq = s.dropSeq := rfl
@[simp] theorem openFrame_sw (s : State) : (openFrame s).sw = s.sw := rfl
@[simp] theorem openFrame_rb (s : State) : (openFrame s).rb = s.rb := rfl
@[simp] theorem openFrame_app (s : State) : (openFrame s).app = s.app := rfl
@[simp] theorem openFrame_txbuf (s : State) : (openFrame s).txbuf = s.txbuf := rfl
@[simp] theorem openFrame_txCur (s : State) : (openFrame s).txCur = s.txCur := rfl
@[simp] theorem openFrame_events (s : State) : (openFrame s).events = s.events := rfl
@[simp] theorem openFrame_out (s : State) : (openFrame s).out = s.out := rfl
@[simp] theorem openFrame_epoch (s : State) : (openFrame s).epoch = s.epoch := rfl

/-! ### `beginStep` -/

@[simp] theorem beginStep_build (s : State) (r : List Event) : (beginStep s r).build = s.build := rfl
@[simp] theorem beginStep_sndNext (s : State) (r : List Event) : (beginStep s r).sndNext = s.sndNext := rfl
@[simp] theorem beginStep_sndUna (s : State) (r : List Event) : (beginStep s r).sndUna = s.sndUna := rfl
@[simp] theorem beginStep_rcvExp (s : State) (r : List Event) : (beginStep s r).rcvExp = s.rcvExp := rfl
@[simp] theorem beginStep_phase (s : State) (r : List Event) : (beginStep s r).phase = s.phase := rfl
@[simp] theorem beginStep_frozen (s : State) (r : List Event) : (beginStep s r).frozen = s.frozen := rfl
@[simp] theorem beginStep_closeCause (s : State) (r : List Event) : (beginStep s r).closeCause = s.closeCause := rfl
@[simp] theorem beginStep_now (s : State) (r : List Event) : (beginStep s r).now = s.now := rfl
@[simp] theorem beginStep_lctrlDeadline (s : State) (r : List Event) :
    (beginStep s r).lctrlDeadline = s.lctrlDeadline := rfl
@[simp] theorem beginStep_ackReq (s : State) (r : List Event) : (beginStep s r).ackReq = s.ackReq := rfl
@[simp] theorem beginStep_lctrlReq (s : State) (r : List Event) : (beginStep s r).lctrlReq = s.lctrlReq := rfl
@[simp] theorem beginStep_finReq (s : State) (r : List Event) : (beginStep s r).finReq = s.finReq := rfl
@[simp] theorem beginStep_rxEn (s : State) (r : List Event) : (beginStep s r).rxEn = s.rxEn := rfl
@[simp] theorem beginStep_rxs (s : State) (r : List Event) : (beginStep s r).rxs = s.rxs := rfl
@[simp] theorem beginStep_rxEsc (s : State) (r : List Event) : (beginStep s r).rxEsc = s.rxEsc := rfl
@[simp] theorem beginStep_rxbuf (s : State) (r : List Event) : (beginStep s r).rxbuf = s.rxbuf := rfl
@[simp] theorem beginStep_rxlen (s : State) (r : List Event) : (beginStep s r).rxlen = s.rxlen := rfl
@[simp] theorem beginStep_pullPend (s : State) (r : List Event) : (beginStep s r).pullPend = s.pullPend := rfl
@[simp] theorem beginStep_pullMax (s : State) (r : List Event) : (beginStep s r).pullMax = s.pullMax := rfl
@[simp] theorem beginStep_pullInf (s : State) (r : List Event) : (beginStep s r).pullInf = s.pullInf := rfl
@[simp] theorem beginStep_pullNowait (s : State) (r : List Event) : (beginStep s r).pullNowait = s.pullNowait := rfl
@[simp] theorem beginStep_pullDeadline (s : State) (r : List Event) :
    (beginStep s r).pullDeadline = s.pullDeadline := rfl
@[simp] theorem beginStep_irqStatus (s : State) (r : List Event) : (beginStep s r).irqStatus = s.irqStatus := rfl
@[simp] theorem beginStep_irqEnable (s : State) (r : List Event) : (beginStep s r).irqEnable = s.irqEnable := rfl
@[simp] theorem beginStep_localPkt (s : State) (r : List Event) : (beginStep s r).localPkt = s.localPkt := rfl
@[simp] theorem beginStep_localWin (s : State) (r : List Event) : (beginStep s r).localWin = s.localWin := rfl
@[simp] theorem beginStep_baud (s : State) (r : List Event) : (beginStep s r).baud = s.baud := rfl
@[simp] theorem beginStep_effPkt (s : State) (r : List Event) : (beginStep s r).effPkt = s.effPkt := rfl
@[simp] theorem beginStep_effWin (s : State) (r : List Event) : (beginStep s r).effWin = s.effWin := rfl
@[simp] theorem beginStep_rtoInit (s : State) (r : List Event) : (beginStep s r).rtoInit = s.rtoInit := rfl
@[simp] theorem beginStep_rtoMax (s : State) (r : List Event) : (beginStep s r).rtoMax = s.rtoMax := rfl
@[simp] theorem beginStep_retryMax (s : State) (r : List Event) : (beginStep s r).retryMax = s.retryMax := rfl
@[simp] theorem beginStep_lctrlPeriod (s : State) (r : List Event) :
    (beginStep s r).lctrlPeriod = s.lctrlPeriod := rfl
@[simp] theorem beginStep_deadCause (s : State) (r : List Event) : (beginStep s r).deadCause = s.deadCause := rfl
@[simp] theorem beginStep_deadInfo (s : State) (r : List Event) : (beginStep s r).deadInfo = s.deadInfo := rfl
@[simp] theorem beginStep_dropFcs (s : State) (r : List Event) : (beginStep s r).dropFcs = s.dropFcs := rfl
@[simp] theorem beginStep_dropFormat (s : State) (r : List Event) : (beginStep s r).dropFormat = s.dropFormat := rfl
@[simp] theorem beginStep_dropOversize (s : State) (r : List Event) :
    (beginStep s r).dropOversize = s.dropOversize := rfl
@[simp] theorem beginStep_dropSeq (s : State) (r : List Event) : (beginStep s r).dropSeq = s.dropSeq := rfl
@[simp] theorem beginStep_sw (s : State) (r : List Event) : (beginStep s r).sw = s.sw := rfl
@[simp] theorem beginStep_rb (s : State) (r : List Event) : (beginStep s r).rb = s.rb := rfl
@[simp] theorem beginStep_app (s : State) (r : List Event) : (beginStep s r).app = s.app := rfl
@[simp] theorem beginStep_txbuf (s : State) (r : List Event) : (beginStep s r).txbuf = s.txbuf := rfl
@[simp] theorem beginStep_txCur (s : State) (r : List Event) : (beginStep s r).txCur = s.txCur := rfl
@[simp] theorem beginStep_events (s : State) (r : List Event) : (beginStep s r).events = r := rfl
@[simp] theorem beginStep_out (s : State) (r : List Event) : (beginStep s r).out = {} := rfl
@[simp] theorem beginStep_epoch (s : State) (r : List Event) : (beginStep s r).epoch = s.epoch := rfl

/-! ### `fatal` -/

@[simp] theorem fatal_build (s : State) (c : DeadCause) (i : Byte) : (fatal s c i).build = s.build := rfl
@[simp] theorem fatal_sndNext (s : State) (c : DeadCause) (i : Byte) : (fatal s c i).sndNext = s.sndNext := rfl
@[simp] theorem fatal_sndUna (s : State) (c : DeadCause) (i : Byte) : (fatal s c i).sndUna = s.sndUna := rfl
@[simp] theorem fatal_rcvExp (s : State) (c : DeadCause) (i : Byte) : (fatal s c i).rcvExp = s.rcvExp := rfl
@[simp] theorem fatal_phase (s : State) (c : DeadCause) (i : Byte) : (fatal s c i).phase = .dead := rfl
@[simp] theorem fatal_frozen (s : State) (c : DeadCause) (i : Byte) : (fatal s c i).frozen = s.frozen := rfl
@[simp] theorem fatal_closeCause (s : State) (c : DeadCause) (i : Byte) :
    (fatal s c i).closeCause = s.closeCause := rfl
@[simp] theorem fatal_now (s : State) (c : DeadCause) (i : Byte) : (fatal s c i).now = s.now := rfl
@[simp] theorem fatal_lctrlDeadline (s : State) (c : DeadCause) (i : Byte) :
    (fatal s c i).lctrlDeadline = s.lctrlDeadline := rfl
@[simp] theorem fatal_ackReq (s : State) (c : DeadCause) (i : Byte) : (fatal s c i).ackReq = s.ackReq := rfl
@[simp] theorem fatal_lctrlReq (s : State) (c : DeadCause) (i : Byte) : (fatal s c i).lctrlReq = s.lctrlReq := rfl
@[simp] theorem fatal_finReq (s : State) (c : DeadCause) (i : Byte) : (fatal s c i).finReq = s.finReq := rfl
@[simp] theorem fatal_rxEn (s : State) (c : DeadCause) (i : Byte) : (fatal s c i).rxEn = false := rfl
@[simp] theorem fatal_rxs (s : State) (c : DeadCause) (i : Byte) : (fatal s c i).rxs = s.rxs := rfl
@[simp] theorem fatal_rxEsc (s : State) (c : DeadCause) (i : Byte) : (fatal s c i).rxEsc = s.rxEsc := rfl
@[simp] theorem fatal_rxbuf (s : State) (c : DeadCause) (i : Byte) : (fatal s c i).rxbuf = s.rxbuf := rfl
@[simp] theorem fatal_rxlen (s : State) (c : DeadCause) (i : Byte) : (fatal s c i).rxlen = s.rxlen := rfl
@[simp] theorem fatal_pullPend (s : State) (c : DeadCause) (i : Byte) : (fatal s c i).pullPend = s.pullPend := rfl
@[simp] theorem fatal_pullMax (s : State) (c : DeadCause) (i : Byte) : (fatal s c i).pullMax = s.pullMax := rfl
@[simp] theorem fatal_pullInf (s : State) (c : DeadCause) (i : Byte) : (fatal s c i).pullInf = s.pullInf := rfl
@[simp] theorem fatal_pullNowait (s : State) (c : DeadCause) (i : Byte) :
    (fatal s c i).pullNowait = s.pullNowait := rfl
@[simp] theorem fatal_pullDeadline (s : State) (c : DeadCause) (i : Byte) :
    (fatal s c i).pullDeadline = s.pullDeadline := rfl
@[simp] theorem fatal_irqStatus (s : State) (c : DeadCause) (i : Byte) :
    (fatal s c i).irqStatus = s.irqStatus ||| IrqFlag.bit .dead := rfl
@[simp] theorem fatal_irqEnable (s : State) (c : DeadCause) (i : Byte) : (fatal s c i).irqEnable = s.irqEnable := rfl
@[simp] theorem fatal_localPkt (s : State) (c : DeadCause) (i : Byte) : (fatal s c i).localPkt = s.localPkt := rfl
@[simp] theorem fatal_localWin (s : State) (c : DeadCause) (i : Byte) : (fatal s c i).localWin = s.localWin := rfl
@[simp] theorem fatal_baud (s : State) (c : DeadCause) (i : Byte) : (fatal s c i).baud = s.baud := rfl
@[simp] theorem fatal_effPkt (s : State) (c : DeadCause) (i : Byte) : (fatal s c i).effPkt = s.effPkt := rfl
@[simp] theorem fatal_effWin (s : State) (c : DeadCause) (i : Byte) : (fatal s c i).effWin = s.effWin := rfl
@[simp] theorem fatal_rtoInit (s : State) (c : DeadCause) (i : Byte) : (fatal s c i).rtoInit = s.rtoInit := rfl
@[simp] theorem fatal_rtoMax (s : State) (c : DeadCause) (i : Byte) : (fatal s c i).rtoMax = s.rtoMax := rfl
@[simp] theorem fatal_retryMax (s : State) (c : DeadCause) (i : Byte) : (fatal s c i).retryMax = s.retryMax := rfl
@[simp] theorem fatal_lctrlPeriod (s : State) (c : DeadCause) (i : Byte) :
    (fatal s c i).lctrlPeriod = s.lctrlPeriod := rfl
@[simp] theorem fatal_deadCause (s : State) (c : DeadCause) (i : Byte) : (fatal s c i).deadCause = c := rfl
@[simp] theorem fatal_deadInfo (s : State) (c : DeadCause) (i : Byte) : (fatal s c i).deadInfo = i := rfl
@[simp] theorem fatal_dropFcs (s : State) (c : DeadCause) (i : Byte) : (fatal s c i).dropFcs = s.dropFcs := rfl
@[simp] theorem fatal_dropFormat (s : State) (c : DeadCause) (i : Byte) :
    (fatal s c i).dropFormat = s.dropFormat := rfl
@[simp] theorem fatal_dropOversize (s : State) (c : DeadCause) (i : Byte) :
    (fatal s c i).dropOversize = s.dropOversize := rfl
@[simp] theorem fatal_dropSeq (s : State) (c : DeadCause) (i : Byte) : (fatal s c i).dropSeq = s.dropSeq := rfl
@[simp] theorem fatal_sw (s : State) (c : DeadCause) (i : Byte) : (fatal s c i).sw = s.sw := rfl
@[simp] theorem fatal_rb (s : State) (c : DeadCause) (i : Byte) : (fatal s c i).rb = s.rb := rfl
@[simp] theorem fatal_app (s : State) (c : DeadCause) (i : Byte) : (fatal s c i).app = s.app := rfl
@[simp] theorem fatal_txbuf (s : State) (c : DeadCause) (i : Byte) : (fatal s c i).txbuf = [] := rfl
@[simp] theorem fatal_txCur (s : State) (c : DeadCause) (i : Byte) : (fatal s c i).txCur = .none := rfl
@[simp] theorem fatal_events (s : State) (c : DeadCause) (i : Byte) : (fatal s c i).events = s.events := rfl
@[simp] theorem fatal_out (s : State) (c : DeadCause) (i : Byte) : (fatal s c i).out = s.out := rfl
@[simp] theorem fatal_epoch (s : State) (c : DeadCause) (i : Byte) : (fatal s c i).epoch = s.epoch := rfl

/-! ### `doClose` -/

@[simp] theorem doClose_build (s : State) (c : CloseCause) : (doClose s c).build = s.build := rfl
@[simp] theorem doClose_sndNext (s : State) (c : CloseCause) : (doClose s c).sndNext = s.sndNext := rfl
@[simp] theorem doClose_sndUna (s : State) (c : CloseCause) : (doClose s c).sndUna = s.sndUna := rfl
@[simp] theorem doClose_rcvExp (s : State) (c : CloseCause) : (doClose s c).rcvExp = s.rcvExp := rfl
@[simp] theorem doClose_phase (s : State) (c : CloseCause) : (doClose s c).phase = .closed := rfl
@[simp] theorem doClose_frozen (s : State) (c : CloseCause) : (doClose s c).frozen = s.frozen := rfl
@[simp] theorem doClose_closeCause (s : State) (c : CloseCause) : (doClose s c).closeCause = c := rfl
@[simp] theorem doClose_now (s : State) (c : CloseCause) : (doClose s c).now = s.now := rfl
@[simp] theorem doClose_lctrlDeadline (s : State) (c : CloseCause) :
    (doClose s c).lctrlDeadline = s.lctrlDeadline := rfl
@[simp] theorem doClose_ackReq (s : State) (c : CloseCause) : (doClose s c).ackReq = s.ackReq := rfl
@[simp] theorem doClose_lctrlReq (s : State) (c : CloseCause) : (doClose s c).lctrlReq = s.lctrlReq := rfl
@[simp] theorem doClose_finReq (s : State) (c : CloseCause) :
    (doClose s c).finReq = if c = .localClose then true else s.finReq := rfl
@[simp] theorem doClose_rxEn (s : State) (c : CloseCause) : (doClose s c).rxEn = false := rfl
@[simp] theorem doClose_rxs (s : State) (c : CloseCause) : (doClose s c).rxs = s.rxs := rfl
@[simp] theorem doClose_rxEsc (s : State) (c : CloseCause) : (doClose s c).rxEsc = s.rxEsc := rfl
@[simp] theorem doClose_rxbuf (s : State) (c : CloseCause) : (doClose s c).rxbuf = s.rxbuf := rfl
@[simp] theorem doClose_rxlen (s : State) (c : CloseCause) : (doClose s c).rxlen = s.rxlen := rfl
@[simp] theorem doClose_pullPend (s : State) (c : CloseCause) : (doClose s c).pullPend = s.pullPend := rfl
@[simp] theorem doClose_pullMax (s : State) (c : CloseCause) : (doClose s c).pullMax = s.pullMax := rfl
@[simp] theorem doClose_pullInf (s : State) (c : CloseCause) : (doClose s c).pullInf = s.pullInf := rfl
@[simp] theorem doClose_pullNowait (s : State) (c : CloseCause) : (doClose s c).pullNowait = s.pullNowait := rfl
@[simp] theorem doClose_pullDeadline (s : State) (c : CloseCause) : (doClose s c).pullDeadline = s.pullDeadline := rfl
@[simp] theorem doClose_irqStatus (s : State) (c : CloseCause) :
    (doClose s c).irqStatus = s.irqStatus ||| IrqFlag.bit .closed := rfl
@[simp] theorem doClose_irqEnable (s : State) (c : CloseCause) : (doClose s c).irqEnable = s.irqEnable := rfl
@[simp] theorem doClose_localPkt (s : State) (c : CloseCause) : (doClose s c).localPkt = s.localPkt := rfl
@[simp] theorem doClose_localWin (s : State) (c : CloseCause) : (doClose s c).localWin = s.localWin := rfl
@[simp] theorem doClose_baud (s : State) (c : CloseCause) : (doClose s c).baud = s.baud := rfl
@[simp] theorem doClose_effPkt (s : State) (c : CloseCause) : (doClose s c).effPkt = s.effPkt := rfl
@[simp] theorem doClose_effWin (s : State) (c : CloseCause) : (doClose s c).effWin = s.effWin := rfl
@[simp] theorem doClose_rtoInit (s : State) (c : CloseCause) : (doClose s c).rtoInit = s.rtoInit := rfl
@[simp] theorem doClose_rtoMax (s : State) (c : CloseCause) : (doClose s c).rtoMax = s.rtoMax := rfl
@[simp] theorem doClose_retryMax (s : State) (c : CloseCause) : (doClose s c).retryMax = s.retryMax := rfl
@[simp] theorem doClose_lctrlPeriod (s : State) (c : CloseCause) : (doClose s c).lctrlPeriod = s.lctrlPeriod := rfl
@[simp] theorem doClose_deadCause (s : State) (c : CloseCause) : (doClose s c).deadCause = s.deadCause := rfl
@[simp] theorem doClose_deadInfo (s : State) (c : CloseCause) : (doClose s c).deadInfo = s.deadInfo := rfl
@[simp] theorem doClose_dropFcs (s : State) (c : CloseCause) : (doClose s c).dropFcs = s.dropFcs := rfl
@[simp] theorem doClose_dropFormat (s : State) (c : CloseCause) : (doClose s c).dropFormat = s.dropFormat := rfl
@[simp] theorem doClose_dropOversize (s : State) (c : CloseCause) : (doClose s c).dropOversize = s.dropOversize := rfl
@[simp] theorem doClose_dropSeq (s : State) (c : CloseCause) : (doClose s c).dropSeq = s.dropSeq := rfl
@[simp] theorem doClose_sw (s : State) (c : CloseCause) : (doClose s c).sw = s.sw := rfl
@[simp] theorem doClose_rb (s : State) (c : CloseCause) : (doClose s c).rb = s.rb := rfl
@[simp] theorem doClose_app (s : State) (c : CloseCause) : (doClose s c).app = s.app := rfl
@[simp] theorem doClose_txbuf (s : State) (c : CloseCause) : (doClose s c).txbuf = s.txbuf := rfl
@[simp] theorem doClose_txCur (s : State) (c : CloseCause) : (doClose s c).txCur = s.txCur := rfl
@[simp] theorem doClose_events (s : State) (c : CloseCause) : (doClose s c).events = s.events := rfl
@[simp] theorem doClose_out (s : State) (c : CloseCause) : (doClose s c).out = s.out := rfl
@[simp] theorem doClose_epoch (s : State) (c : CloseCause) : (doClose s c).epoch = s.epoch := rfl

/-! ### `drop` -/

@[simp] theorem drop_build (s : State) (c : DropCounter) : (drop s c).build = s.build := by cases c <;> rfl
@[simp] theorem drop_sndNext (s : State) (c : DropCounter) : (drop s c).sndNext = s.sndNext := by cases c <;> rfl
@[simp] theorem drop_sndUna (s : State) (c : DropCounter) : (drop s c).sndUna = s.sndUna := by cases c <;> rfl
@[simp] theorem drop_rcvExp (s : State) (c : DropCounter) : (drop s c).rcvExp = s.rcvExp := by cases c <;> rfl
@[simp] theorem drop_phase (s : State) (c : DropCounter) : (drop s c).phase = s.phase := by cases c <;> rfl
@[simp] theorem drop_frozen (s : State) (c : DropCounter) : (drop s c).frozen = s.frozen := by cases c <;> rfl
@[simp] theorem drop_closeCause (s : State) (c : DropCounter) :
    (drop s c).closeCause = s.closeCause := by cases c <;> rfl
@[simp] theorem drop_now (s : State) (c : DropCounter) : (drop s c).now = s.now := by cases c <;> rfl
@[simp] theorem drop_lctrlDeadline (s : State) (c : DropCounter) :
    (drop s c).lctrlDeadline = s.lctrlDeadline := by cases c <;> rfl
@[simp] theorem drop_ackReq (s : State) (c : DropCounter) : (drop s c).ackReq = s.ackReq := by cases c <;> rfl
@[simp] theorem drop_lctrlReq (s : State) (c : DropCounter) : (drop s c).lctrlReq = s.lctrlReq := by cases c <;> rfl
@[simp] theorem drop_finReq (s : State) (c : DropCounter) : (drop s c).finReq = s.finReq := by cases c <;> rfl
@[simp] theorem drop_rxEn (s : State) (c : DropCounter) : (drop s c).rxEn = s.rxEn := by cases c <;> rfl
@[simp] theorem drop_rxs (s : State) (c : DropCounter) : (drop s c).rxs = s.rxs := by cases c <;> rfl
@[simp] theorem drop_rxEsc (s : State) (c : DropCounter) : (drop s c).rxEsc = s.rxEsc := by cases c <;> rfl
@[simp] theorem drop_rxbuf (s : State) (c : DropCounter) : (drop s c).rxbuf = s.rxbuf := by cases c <;> rfl
@[simp] theorem drop_rxlen (s : State) (c : DropCounter) : (drop s c).rxlen = s.rxlen := by cases c <;> rfl
@[simp] theorem drop_pullPend (s : State) (c : DropCounter) : (drop s c).pullPend = s.pullPend := by cases c <;> rfl
@[simp] theorem drop_pullMax (s : State) (c : DropCounter) : (drop s c).pullMax = s.pullMax := by cases c <;> rfl
@[simp] theorem drop_pullInf (s : State) (c : DropCounter) : (drop s c).pullInf = s.pullInf := by cases c <;> rfl
@[simp] theorem drop_pullNowait (s : State) (c : DropCounter) :
    (drop s c).pullNowait = s.pullNowait := by cases c <;> rfl
@[simp] theorem drop_pullDeadline (s : State) (c : DropCounter) :
    (drop s c).pullDeadline = s.pullDeadline := by cases c <;> rfl
@[simp] theorem drop_irqStatus (s : State) (c : DropCounter) :
    (drop s c).irqStatus = s.irqStatus := by cases c <;> rfl
@[simp] theorem drop_irqEnable (s : State) (c : DropCounter) :
    (drop s c).irqEnable = s.irqEnable := by cases c <;> rfl
@[simp] theorem drop_localPkt (s : State) (c : DropCounter) : (drop s c).localPkt = s.localPkt := by cases c <;> rfl
@[simp] theorem drop_localWin (s : State) (c : DropCounter) : (drop s c).localWin = s.localWin := by cases c <;> rfl
@[simp] theorem drop_baud (s : State) (c : DropCounter) : (drop s c).baud = s.baud := by cases c <;> rfl
@[simp] theorem drop_effPkt (s : State) (c : DropCounter) : (drop s c).effPkt = s.effPkt := by cases c <;> rfl
@[simp] theorem drop_effWin (s : State) (c : DropCounter) : (drop s c).effWin = s.effWin := by cases c <;> rfl
@[simp] theorem drop_rtoInit (s : State) (c : DropCounter) : (drop s c).rtoInit = s.rtoInit := by cases c <;> rfl
@[simp] theorem drop_rtoMax (s : State) (c : DropCounter) : (drop s c).rtoMax = s.rtoMax := by cases c <;> rfl
@[simp] theorem drop_retryMax (s : State) (c : DropCounter) : (drop s c).retryMax = s.retryMax := by cases c <;> rfl
@[simp] theorem drop_lctrlPeriod (s : State) (c : DropCounter) :
    (drop s c).lctrlPeriod = s.lctrlPeriod := by cases c <;> rfl
@[simp] theorem drop_deadCause (s : State) (c : DropCounter) :
    (drop s c).deadCause = s.deadCause := by cases c <;> rfl
@[simp] theorem drop_deadInfo (s : State) (c : DropCounter) : (drop s c).deadInfo = s.deadInfo := by cases c <;> rfl
@[simp] theorem drop_dropFcs (s : State) (c : DropCounter) :
    (drop s c).dropFcs = if c = .fcs then satInc s.dropFcs else s.dropFcs := by cases c <;> rfl
@[simp] theorem drop_dropFormat (s : State) (c : DropCounter) :
    (drop s c).dropFormat = if c = .format then satInc s.dropFormat else s.dropFormat := by cases c <;> rfl
@[simp] theorem drop_dropOversize (s : State) (c : DropCounter) :
    (drop s c).dropOversize = if c = .oversize then satInc s.dropOversize else s.dropOversize := by cases c <;> rfl
@[simp] theorem drop_dropSeq (s : State) (c : DropCounter) :
    (drop s c).dropSeq = if c = .seq then satInc s.dropSeq else s.dropSeq := by cases c <;> rfl
@[simp] theorem drop_sw (s : State) (c : DropCounter) : (drop s c).sw = s.sw := by cases c <;> rfl
@[simp] theorem drop_rb (s : State) (c : DropCounter) : (drop s c).rb = s.rb := by cases c <;> rfl
@[simp] theorem drop_app (s : State) (c : DropCounter) : (drop s c).app = s.app := by cases c <;> rfl
@[simp] theorem drop_txbuf (s : State) (c : DropCounter) : (drop s c).txbuf = s.txbuf := by cases c <;> rfl
@[simp] theorem drop_txCur (s : State) (c : DropCounter) : (drop s c).txCur = s.txCur := by cases c <;> rfl
@[simp] theorem drop_events (s : State) (c : DropCounter) : (drop s c).events = s.events := by cases c <;> rfl
@[simp] theorem drop_out (s : State) (c : DropCounter) : (drop s c).out = s.out := by cases c <;> rfl
@[simp] theorem drop_epoch (s : State) (c : DropCounter) : (drop s c).epoch = s.epoch := by cases c <;> rfl

end Sys2Proof.Machine
end

