-- ==== Sys2Proof/Laws/Slots.lean ====
section
/-! SUPPORT. Slot files: reading a slot after a change, slot indices of consecutive sequence numbers (R45), and what a
change of a run of outstanding slots leaves in each (R133). -/

namespace Sys2Proof.Machine

theorem getD_modify {α : Type} (l : List α) (i j : Nat) (f : α → α) (d : α) (hi : i < l.length) :
    (l.modify i f).getD j d = if j = i then f (l.getD i d) else l.getD j d := by
  rw [List.getD_eq_getElem?_getD, List.getD_eq_getElem?_getD, List.getD_eq_getElem?_getD, List.getElem?_modify]
  split
  · next h =>
    subst h
    simp [List.getElem?_eq_getElem hi]
  · next h =>
    rw [if_neg (fun h' => h h'.symm)]
    simp

/-- Reading `SW[j]` after a change of `SW[i]`. -/
theorem swAt_modifySw (s : State) (i j : Nat) (f : SwSlot → SwSlot) (hi : i < s.sw.length) :
    swAt (modifySw s i f) j = if j = i then f (swAt s i) else swAt s j :=
  getD_modify s.sw i j f {} hi

/-- Reading `RB[j]` after a change of `RB[i]`. -/
theorem rbAt_modifyRb (s : State) (i j : Nat) (f : RbSlot → RbSlot) (hi : i < s.rb.length) :
    rbAt (modifyRb s i f) j = if j = i then f (rbAt s i) else rbAt s j :=
  getD_modify s.rb i j f {} hi

@[simp] theorem modifySw_sw_length (s : State) (i : Nat) (f : SwSlot → SwSlot) :
    (modifySw s i f).sw.length = s.sw.length := by simp

@[simp] theorem modifyRb_rb_length (s : State) (i : Nat) (f : RbSlot → RbSlot) :
    (modifyRb s i f).rb.length = s.rb.length := by simp

/-- A legal window file has at least one slot and a size that divides 256. -/
theorem Build.ok_wMax {b : Build} (h : b.ok = true) :
    b.wMax = 1 ∨ b.wMax = 2 ∨ b.wMax = 4 ∨ b.wMax = 8 ∨ b.wMax = 16 ∨ b.wMax = 32 ∨ b.wMax = 64 ∨ b.wMax = 128 := by
  simp only [Build.ok, Bool.and_eq_true, List.contains_eq_mem, decide_eq_true_eq] at h
  simpa using h.1.1

theorem Build.ok_wMax_pos {b : Build} (h : b.ok = true) : 0 < b.wMax := by
  rcases Build.ok_wMax h with h | h | h | h | h | h | h | h <;> omega

theorem Build.ok_wMax_le {b : Build} (h : b.ok = true) : b.wMax ≤ 128 := by
  rcases Build.ok_wMax h with h | h | h | h | h | h | h | h <;> omega

theorem Build.ok_wMax_dvd {b : Build} (h : b.ok = true) : b.wMax ∣ 256 := by
  rcases Build.ok_wMax h with h | h | h | h | h | h | h | h <;> rw [h] <;> decide

theorem Build.ok_pMax {b : Build} (h : b.ok = true) : 1 ≤ b.pMax ∧ b.pMax ≤ 65535 := by
  simp only [Build.ok, Bool.and_eq_true, decide_eq_true_eq] at h
  exact h.1.2

theorem Build.ok_appCap {b : Build} (h : b.ok = true) : b.pMax ≤ b.appCap ∧ b.appCap < 2 ^ 32 := by
  simp only [Build.ok, Bool.and_eq_true, decide_eq_true_eq] at h
  exact h.2

/-- The slot index is inside the file. -/
theorem slotIndex_lt {s : State} (h : s.build.ok = true) (q : Seq) : slotIndex s q < s.build.wMax :=
  Nat.mod_lt _ (Build.ok_wMax_pos h)

/-- The slot index of the `k`-th number after `q`: consecutive numbers take consecutive slots, across the wrap as
well (R45). -/
theorem slotIndex_add {s : State} (h : s.build.ok = true) (q : Seq) (k : Nat) :
    slotIndex s (q + BitVec.ofNat 8 k) = (q.toNat + k) % s.build.wMax := by
  simp only [slotIndex, BitVec.toNat_add, BitVec.toNat_ofNat, Nat.reducePow, Nat.add_mod_mod]
  exact Nat.mod_mod_of_dvd _ (Build.ok_wMax_dvd h)

/-- Any `W_MAX` consecutive sequence numbers have distinct slots (R45). -/
theorem slotIndex_add_inj {s : State} (h : s.build.ok = true) {q : Seq} {k l : Nat} (hk : k < s.build.wMax)
    (hl : l < s.build.wMax) (e : slotIndex s (q + BitVec.ofNat 8 k) = slotIndex s (q + BitVec.ofNat 8 l)) :
    k = l := by
  rw [slotIndex_add h, slotIndex_add h] at e
  have h1 : k ≡ l [MOD s.build.wMax] := Nat.ModEq.add_left_cancel' q.toNat e
  rw [Nat.ModEq, Nat.mod_eq_of_lt hk, Nat.mod_eq_of_lt hl] at h1
  exact h1

/-- The indices of the outstanding frames depend on `SND_UNA` and the build alone. -/
theorem outIndex_congr {s t : State} (hb : t.build = s.build) (hu : t.sndUna = s.sndUna) (k : Nat) :
    outIndex t k = outIndex s k := by simp [outIndex, slotIndex, hb, hu]

/-- A change of the slots at indices `g 0 .. g (n - 1)` leaves every other slot alone. -/
theorem getD_foldl_modify_ne {α : Type} (l : List α) (n : Nat) (g : Nat → Nat) (f : α → α) (d : α) (j : Nat)
    (h : ∀ k < n, g k ≠ j) :
    ((List.range n).foldl (fun l k => l.modify (g k) f) l).getD j d = l.getD j d := by
  induction n with
  | zero => simp
  | succ n ih =>
    have hg : g n ≠ j := h n (by omega)
    rw [List.range_succ, List.foldl_append, List.foldl_cons, List.foldl_nil, ← ih (fun k hk => h k (by omega))]
    simp [List.getD_eq_getElem?_getD, hg]

/-- A change of the slots at indices `g 0 .. g (n - 1)`, all distinct and inside the list, reads as the changed slot
at those indices and as before elsewhere. -/
theorem getD_foldl_modify {α : Type} (l : List α) (n : Nat) (g : Nat → Nat) (f : α → α) (d : α)
    (hlt : ∀ k < n, g k < l.length) (hinj : ∀ k < n, ∀ m < n, g k = g m → k = m) (j : Nat) :
    ((List.range n).foldl (fun l k => l.modify (g k) f) l).getD j d
        = if ∃ k < n, g k = j then f (l.getD j d) else l.getD j d := by
  induction n with
  | zero => simp
  | succ n ih =>
    have hlen : ∀ n, ((List.range n).foldl (fun l k => l.modify (g k) f) l).length = l.length := by
      intro n
      induction n with
      | zero => simp
      | succ n ih => simp [List.range_succ, ih]
    have ih := ih (fun k hk => hlt k (by omega)) (fun k hk m hm => hinj k (by omega) m (by omega))
    rw [List.range_succ, List.foldl_append, List.foldl_cons, List.foldl_nil,
      getD_modify _ _ _ _ _ (by rw [hlen]; exact hlt n (by omega))]
    by_cases hj : j = g n
    · subst hj
      have hno : ¬ ∃ k < n, g k = g n := by
        rintro ⟨k, hk, e⟩
        exact absurd (hinj k (by omega) n (by omega) e) (by omega)
      have : ((List.range n).foldl (fun l k => l.modify (g k) f) l).getD (g n) d = l.getD (g n) d := by
        have h2 := getD_foldl_modify_ne l n g f d (g n) (fun k hk e => hno ⟨k, hk, e⟩)
        exact h2
      rw [if_pos rfl, this, if_pos ⟨n, by omega, rfl⟩]
    · rw [if_neg hj, ih]
      have : (∃ k < n + 1, g k = j) ↔ ∃ k < n, g k = j := by
        constructor
        · rintro ⟨k, hk, e⟩
          refine ⟨k, ?_, e⟩
          rcases Nat.lt_succ_iff_lt_or_eq.mp hk with h | h
          · exact h
          · subst h; exact absurd e.symm hj
        · rintro ⟨k, hk, e⟩
          exact ⟨k, by omega, e⟩
      simp only [this]
/-- Reading `SW[j]` after a change of the first `n` outstanding slots, for a file of the build's size and at most
that many frames. -/
theorem swAt_modifyOutstanding {s : State} (hb : s.build.ok = true) (hl : s.sw.length = s.build.wMax) {n : Nat}
    (hn : n ≤ s.build.wMax) (f : SwSlot → SwSlot) (j : Nat) :
    swAt (modifyOutstanding s n f) j = if ∃ k < n, outIndex s k = j then f (swAt s j) else swAt s j :=
  getD_foldl_modify s.sw n (outIndex s) f {} (fun _ _ => hl ▸ slotIndex_lt hb _)
    (fun _ hk _ hm e => slotIndex_add_inj hb (by omega) (by omega) e) j

/-- A change of outstanding slots keeps the size of the file. -/
@[simp] theorem modifyOutstanding_sw_length (s : State) (n : Nat) (f : SwSlot → SwSlot) :
    (modifyOutstanding s n f).sw.length = s.sw.length := by
  rw [modifyOutstanding_sw]
  induction n with
  | zero => simp
  | succ n ih => simp [List.range_succ, ih]

end Sys2Proof.Machine
end

