-- ==== Sys2Proof/Laws/Ops.lean ====
section
/-! SUPPORT. What each shared operation can do, said once: the fields it may write (`…_frame`: every other field is
as before), or its cases. Callers cite these instead of unfolding the operation. -/

namespace Sys2Proof.Machine

/-! ### WindowSender -/

/-- `SEND` writes `SW` and `SND_NEXT` only (R132). -/
theorem send_frame (s : State) (c : List Byte) :
    send s c = { s with sw := (send s c).sw, sndNext := s.sndNext + 1 } := rfl

/-- `ONACK` writes `SW`, `SND_UNA` and `IRQ_STATUS` only (R133). -/
theorem onAck_frame (s : State) (a : Seq) :
    onAck s a = { s with sw := (onAck s a).sw, sndUna := (onAck s a).sndUna, irqStatus := (onAck s a).irqStatus } := by
  unfold onAck
  split <;> rfl

/-- A number that names no outstanding frame changes nothing (R133, corner cases 1 to 3). -/
theorem onAck_ignored {s : State} {a : Seq} (h : acksSomething s a = false) : onAck s a = s := by
  simp [onAck, h]

/-- Fast retransmission changes one slot or nothing (R134). -/
theorem fastRetransmit_frame (s : State) : fastRetransmit s = { s with sw := (fastRetransmit s).sw } := by
  unfold fastRetransmit
  dsimp only
  split <;> rfl

/-- `ONNACK` writes what `ONACK` writes (R134). -/
theorem onNack_frame (s : State) (a : Seq) :
    onNack s a
      = { s with sw := (onNack s a).sw, sndUna := (onNack s a).sndUna, irqStatus := (onNack s a).irqStatus } := by
  unfold onNack
  dsimp only
  split
  · rw [fastRetransmit_frame, onAck_frame]
  · exact onAck_frame s a

/-- `ONTIMEOUT` either kills the stream or changes one slot (R135). -/
theorem onTimeout_cases (s : State) (i : Nat) :
    (s.retryMax.toNat < (swAt s i).retry.toNat + 1 ∧ onTimeout s i = fatal s .retryExhausted (swAt s i).seq) ∨
    (¬ s.retryMax.toNat < (swAt s i).retry.toNat + 1 ∧
      onTimeout s i = modifySw s i (fun slot =>
        { slot with
          retry := BitVec.ofNat 8 ((swAt s i).retry.toNat + 1), st := .sent, txreq := true, ts := s.now,
          deadline := rtoDeadline s ((swAt s i).retry.toNat + 1), fastrx := false })) := by
  unfold onTimeout
  dsimp only
  split
  · next h => exact .inl ⟨h, rfl⟩
  · next h => exact .inr ⟨h, rfl⟩

/-- What a scan of the timers leaves: only slots changed, or the stream is dead with cause 1, its transmission cut
off (R136, R237). -/
theorem scanTimers_cases (s : State) (ks : List Nat) :
    (∃ sw, scanTimers s ks = { s with sw := sw }) ∨
    (∃ sw info, scanTimers s ks = fatal { s with sw := sw } .retryExhausted info) := by
  induction ks generalizing s with
  | nil => exact .inl ⟨s.sw, rfl⟩
  | cons k ks ih =>
    simp only [scanTimers]
    split
    · rcases onTimeout_cases s (outIndex s k) with ⟨_, h⟩ | ⟨_, h⟩
      · rw [h, if_pos (fatal_phase _ _ _)]
        exact .inr ⟨s.sw, _, rfl⟩
      · rw [h]
        split
        · exact .inl ⟨_, rfl⟩
        · rcases ih (modifySw s (outIndex s k) _) with ⟨sw, h⟩ | ⟨sw, info, h⟩
          · exact .inl ⟨sw, by rw [h]; rfl⟩
          · exact .inr ⟨sw, info, by rw [h]; rfl⟩
    · exact ih s

/-- `SENDER_TICK`: nothing outside phase OPEN; else only slots changed, or the stream is dead (R136). -/
theorem senderTick_cases (s : State) :
    (∃ sw, senderTick s = { s with sw := sw }) ∨
    (s.phase = .opened ∧ ∃ sw info, senderTick s = fatal { s with sw := sw } .retryExhausted info) := by
  unfold senderTick
  split
  · next h =>
    rcases scanTimers_cases s (List.range (nOut s)) with h1 | h1
    · exact .inl h1
    · exact .inr ⟨h, h1⟩
  · exact .inl ⟨s.sw, rfl⟩

/-- The timers act only in phase OPEN (R137). -/
theorem senderTick_gated {s : State} (h : s.phase ≠ .opened) : senderTick s = s := by simp [senderTick, h]

/-- The loop of `PUSH` writes `SW` and `SND_NEXT` only (R191). -/
theorem pushLoop_frame (fuel : Nat) (s : State) (buf : List Byte) :
    (pushLoop fuel s buf).1
      = { s with sw := (pushLoop fuel s buf).1.sw, sndNext := (pushLoop fuel s buf).1.sndNext } := by
  induction fuel generalizing s buf with
  | zero => rfl
  | succ n ih =>
    simp only [pushLoop]
    split
    · dsimp only
      rw [ih]
      rfl
    · rfl

/-! ### ReceiveReassembler -/

/-- `STORE` writes `RB` only (R152). -/
theorem store_frame (s : State) (q : Seq) (p : List Byte) : store s q p = { s with rb := (store s q p).rb } := by
  unfold store
  dsimp only
  split <;> rfl

@[simp] theorem store_rb_length (s : State) (q : Seq) (p : List Byte) : (store s q p).rb.length = s.rb.length := by
  unfold store
  dsimp only
  split <;> simp

/-- Delivering the head frame writes `APP`, `RB`, `RCV_EXP` and `IRQ_STATUS` only (R153). -/
theorem deliver_frame (s : State) :
    deliver s = { s with
      app := s.app ++ rbPayload s (slotIndex s s.rcvExp), rb := (deliver s).rb, rcvExp := s.rcvExp + 1,
      irqStatus := (deliver s).irqStatus } := by
  unfold deliver
  dsimp only
  split <;> rfl

@[simp] theorem deliver_rb (s : State) :
    (deliver s).rb = s.rb.modify (slotIndex s s.rcvExp) (fun slot => { slot with valid := false }) := by
  unfold deliver
  dsimp only
  split <;> rfl

/-- The loop of `DRAIN` writes `APP`, `RB`, `RCV_EXP` and `IRQ_STATUS` only (R153). -/
theorem drainLoop_frame (fuel : Nat) (s : State) :
    (drainLoop fuel s).1 = { s with
      app := (drainLoop fuel s).1.app, rb := (drainLoop fuel s).1.rb, rcvExp := (drainLoop fuel s).1.rcvExp,
      irqStatus := (drainLoop fuel s).1.irqStatus } := by
  induction fuel generalizing s with
  | zero => rfl
  | succ n ih =>
    simp only [drainLoop]
    split
    · dsimp only
      rw [ih, deliver_frame]
    · rfl

/-- `DRAIN` writes `APP`, `RB`, `RCV_EXP`, `IRQ_STATUS` and `ACKREQ` only (R153). -/
theorem drain_frame (s : State) :
    drain s = { s with
      app := (drain s).app, rb := (drain s).rb, rcvExp := (drain s).rcvExp, irqStatus := (drain s).irqStatus,
      ackReq := (drain s).ackReq } := by
  unfold drain drainCount
  dsimp only
  split
  · rw [drainLoop_frame]
  · rw [drainLoop_frame]

/-- Where the loop test fails, `DRAIN` does nothing (R153). -/
theorem drain_stuck {s : State} (h : headReady s = false) : drainCount s = (s, 0) := by
  unfold drainCount
  cases s.rb.length <;> simp [drainLoop, h]

/-- `ACKREQ_UPDATE` writes `ACKREQ` only (R154). -/
theorem ackReqUpdate_frame (s : State) (d n : Nat) :
    ackReqUpdate s d n = { s with ackReq := (ackReqUpdate s d n).ackReq } := by
  unfold ackReqUpdate
  split
  · rfl
  · split
    · rfl
    · split <;> rfl

/-- `ONFRAME` writes `APP`, `RB`, `RCV_EXP`, `IRQ_STATUS`, `ACKREQ` and `DROP_SEQ` only (R151). -/
theorem onFrame_frame (s : State) (q : Seq) (p : List Byte) :
    onFrame s q p = { s with
      app := (onFrame s q p).app, rb := (onFrame s q p).rb, rcvExp := (onFrame s q p).rcvExp,
      irqStatus := (onFrame s q p).irqStatus, ackReq := (onFrame s q p).ackReq,
      dropSeq := (onFrame s q p).dropSeq } := by
  unfold onFrame
  dsimp only
  split
  · rw [ackReqUpdate_frame, show (drainCount (store s q p)).1 = drain (store s q p) from rfl, drain_frame,
      store_frame]
  · split
    · split <;> rfl
    · rfl

/-- `PULL` writes the pull registers, or answers at once (R156). -/
theorem pullCommand_cases (s : State) (n : BitVec 16) (t : Ticks) :
    (n = 0 ∧ pullCommand s n t = emitR s .ok []) ∨ (n ≠ 0 ∧ pullCommand s n t = armPull s n t) := by
  unfold pullCommand
  split
  · next h => exact .inl ⟨h, rfl⟩
  · next h => exact .inr ⟨h, rfl⟩

/-- `PULL_CHECK` leaves the state alone, or answers the pending `PULL` with the oldest bytes of `APP` or with an
empty run (R157). -/
theorem pullCheck_cases (s : State) :
    pullCheck s = s ∨
    (s.pullPend = true ∧ 0 < s.app.length ∧
      pullCheck s = answerPull s .ok (min s.pullMax.toNat s.app.length)) ∨
    (s.pullPend = true ∧ s.app = [] ∧
      ((s.phase = .closed ∧ pullCheck s = answerPull s .closed 0) ∨
        (s.phase = .dead ∧ pullCheck s = answerPull s .dead 0) ∨
        (s.phase ≠ .closed ∧ s.phase ≠ .dead ∧ s.pullNowait = true ∧
          pullCheck s = answerPull s .timeout 0))) := by
  unfold pullCheck
  split
  · exact .inl rfl
  · next h0 =>
    have hp : s.pullPend = true := by simpa using h0
    split
    · next h1 => exact .inr (.inl ⟨hp, h1, rfl⟩)
    · next h1 =>
      have ha : s.app = [] := List.eq_nil_of_length_eq_zero (by omega)
      split
      · next h2 => exact .inr (.inr ⟨hp, ha, .inl ⟨h2, rfl⟩⟩)
      · next h2 =>
        split
        · next h3 => exact .inr (.inr ⟨hp, ha, .inr (.inl ⟨h3, rfl⟩)⟩)
        · next h3 =>
          split
          · next h4 => exact .inr (.inr ⟨hp, ha, .inr (.inr ⟨h2, h3, h4, rfl⟩)⟩)
          · exact .inl rfl

/-- `PULL_CHECK` writes `APP`, `PULL_PEND` and the outputs only (R157). -/
theorem pullCheck_frame (s : State) :
    pullCheck s = { s with
      app := (pullCheck s).app, pullPend := (pullCheck s).pullPend, out := (pullCheck s).out } := by
  rcases pullCheck_cases s with h | ⟨_, _, h⟩ | ⟨_, _, ⟨_, h⟩ | ⟨_, h⟩ | ⟨_, _, _, h⟩⟩ <;> rw [h] <;> rfl

/-- `PULL_TICK` writes `PULL_NOWAIT` only (R158). -/
theorem pullTick_frame (s : State) : pullTick s = { s with pullNowait := (pullTick s).pullNowait } := by
  unfold pullTick
  split <;> rfl

/-! ### LinkControlNegotiator -/

/-- `LCTRL_TICK` writes `LCTRL_REQ` and `LCTRL_DEADLINE` only (R172). -/
theorem lctrlTick_frame (s : State) :
    lctrlTick s = { s with lctrlReq := (lctrlTick s).lctrlReq, lctrlDeadline := (lctrlTick s).lctrlDeadline } := by
  unfold lctrlTick
  split <;> rfl

/-- A non-FIN LCTRL frame: the freeze in phase NEGOTIATING, the reply unless `RSP` is set, nothing else (R174). -/
theorem onLctrl_cases (s : State) (rsp : Bool) (pkt : BitVec 16) (win : Byte) :
    (s.phase = .negotiating ∧
      onLctrl s rsp pkt win = { freeze s pkt win with lctrlReq := if rsp then s.lctrlReq else true }) ∨
    (s.phase ≠ .negotiating ∧
      onLctrl s rsp pkt win = { s with lctrlReq := if rsp then s.lctrlReq else true }) := by
  unfold onLctrl
  dsimp only
  by_cases h : s.phase = .negotiating
  · refine .inl ⟨h, ?_⟩
    rw [if_pos h]
    cases rsp <;> rfl
  · refine .inr ⟨h, ?_⟩
    rw [if_neg h]
    cases rsp <;> rfl

/-! ### LinkController -/

/-- Stuffing never empties a frame, so a loaded transmitter is never empty. -/
theorem encodeFrame_ne_nil (ty sq a : Byte) (p : List Byte) : encodeFrame ty sq a p ≠ [] := by
  simp [encodeFrame]

/-- `TX_KICK` writes `TXBUF`, `TX_CUR`, the request flags and `SW` only (R212). -/
theorem txKick_frame (s : State) :
    txKick s = { s with
      txbuf := (txKick s).txbuf, txCur := (txKick s).txCur, finReq := (txKick s).finReq,
      lctrlReq := (txKick s).lctrlReq, ackReq := (txKick s).ackReq, sw := (txKick s).sw } := by
  unfold txKick
  split
  · rfl
  · split
    · rfl
    · split
      · rfl
      · split
        · rfl
        · split
          · rfl
          · split
            · split <;> rfl
            · rfl

/-- A frame in progress is not pre-empted (R212). -/
theorem txKick_busy {s : State} (h : 0 < s.txbuf.length) : txKick s = s := by simp [txKick, h]

/-- The closing procedures write these fields only (R211). -/
theorem closing_frame (s : State) :
    ∃ app rb rcvExp irqStatus ackReq pullPend out txbuf txCur finReq lctrlReq sw,
      closing s = { s with
        app := app, rb := rb, rcvExp := rcvExp, irqStatus := irqStatus, ackReq := ackReq, pullPend := pullPend,
        out := out, txbuf := txbuf, txCur := txCur, finReq := finReq, lctrlReq := lctrlReq, sw := sw } := by
  have h1 := drain_frame s
  have h2 := pullCheck_frame (drain s)
  have h3 := drain_frame (pullCheck (drain s))
  have h4 := txKick_frame (drain (pullCheck (drain s)))
  unfold closing
  generalize txKick (drain (pullCheck (drain s))) = s4 at *
  generalize drain (pullCheck (drain s)) = s3 at *
  generalize pullCheck (drain s) = s2 at *
  generalize drain s = s1 at *
  exact ⟨s3.app, s3.rb, s3.rcvExp, s3.irqStatus, s4.ackReq, s2.pullPend, s2.out, s4.txbuf, s4.txCur, s4.finReq,
    s4.lctrlReq, s4.sw, by rw [h4, h3, h2, h1]⟩

/-- `TX_DONE` writes `SW` and `TX_CUR` only (R215). -/
theorem txDone_frame (s : State) : txDone s = { s with sw := (txDone s).sw, txCur := .none } := by
  unfold txDone
  split
  · dsimp only
    split <;> rfl
  all_goals rfl

/-- `TX_BYTE` writes `TXBUF`, the WIRE output, and what `TX_DONE` writes (R214). -/
theorem onTxByte_frame (s : State) (b : Byte) (rest : List Byte) :
    onTxByte s b rest = { s with
      txbuf := rest, out := { s.out with wire := some b }, sw := (onTxByte s b rest).sw,
      txCur := (onTxByte s b rest).txCur } := by
  unfold onTxByte
  dsimp only
  split
  · rw [txDone_frame]
    rfl
  · rfl

/-- `LINK_FAULT`: nothing, the end of the stream, or the end of the transmission (R218). -/
theorem onLinkFault_cases (s : State) (kind : BitVec 3) :
    onLinkFault s kind = s ∨
    (∃ c, faultCause kind = some c ∧ s.phase.live = true ∧ onLinkFault s kind = fatal s c 0) ∨
    (s.phase = .closed ∧ onLinkFault s kind = { s with txbuf := [], txCur := .none, finReq := false }) := by
  unfold onLinkFault
  split
  · exact .inl rfl
  · next c h =>
    split
    · next h1 => exact .inr (.inl ⟨c, h, h1, rfl⟩)
    · split
      · next h2 => exact .inr (.inr ⟨h2, rfl⟩)
      · exact .inl rfl

/-! ### The receive pump -/

/-- `RX_REENABLE` writes `RX_EN` only (R219). -/
theorem rxReenable_frame (s : State) : rxReenable s = { s with rxEn := (rxReenable s).rxEn } := by
  unfold rxReenable
  split <;> rfl

/-- A received byte that is no flag writes the decoder's state and `DROP_OVERSIZE` only (R115). -/
theorem rxDecodeByte_frame (s : State) (b : Byte) :
    rxDecodeByte s b = { s with
      rxs := (rxDecodeByte s b).rxs, rxEsc := (rxDecodeByte s b).rxEsc, rxbuf := (rxDecodeByte s b).rxbuf,
      rxlen := (rxDecodeByte s b).rxlen, dropOversize := (rxDecodeByte s b).dropOversize } := by
  unfold rxDecodeByte
  dsimp only
  split
  · rfl
  · split
    · rfl
    · split <;> rfl

/-- What a checked frame satisfies (R116): it decodes, it is well-formed, and it is within the size limit. -/
theorem frameCheck_ok {s : State} {F : List Byte} {i : Instr} (h : frameCheck s F = .ok i) :
    decodeFrame F = .ok i ∧ i.wellFormed = true ∧ overLimit s i = false := by
  unfold frameCheck at h
  split at h
  · cases h
  · next j hj =>
    split at h
    · cases h
    · next h1 =>
      split at h
      · cases h
      · next h2 =>
        cases h
        exact ⟨hj, by simpa using h1, by simpa using h2⟩

/-- A flag byte either completes a checked frame, or ends with the decoder open and at most one counter changed
(R115, R116). -/
theorem rxFlag_cases (s : State) :
    (∃ i, rxFlag s = .received i s ∧ s.rxs = .inframe ∧ s.rxEsc = false ∧ 0 < s.rxlen ∧
      frameCheck s (rxBody s) = .ok i) ∨
    rxFlag s = .handled (finishFlag s) ∨ (∃ c, rxFlag s = .handled (finishFlag (drop s c))) := by
  unfold rxFlag
  split
  · next h0 =>
    split
    · exact .inr (.inr ⟨.format, rfl⟩)
    · next h1 =>
      split
      · next h2 =>
        split
        · next c _ => exact .inr (.inr ⟨c, rfl⟩)
        · next i h3 => exact .inl ⟨i, rfl, h0, by simpa using h1, h2, h3⟩
      · exact .inr (.inl rfl)
  · exact .inr (.inl rfl)

end Sys2Proof.Machine
end

