-- ==== Sys2Proof/Laws/PerInstr.lean ====
section
/-! SUPPORT. Facts about every instruction as syntax, one lemma per constructor. Family `Tag`: the encoded form of an
instruction carries its row's opcode (R97) or its row's type tag and FIN flag (R84, R85), on its row's port. -/

namespace Sys2Proof.Laws

/-- What identifies a row of spec/opcode_table.json: the port and opcode of a command, or the type of a frame. -/
inductive RowTag where
  | portT (opc : Byte)
  | portR (opc : Byte)
  | frame (type : Byte)
deriving DecidableEq, Repr

/-- The row of an instruction, as the table lists it. -/
def rowTag : Instr → RowTag
  | .nop => .portT 0x00
  | .start => .portT 0x01
  | .close => .portT 0x02
  | .schedLctrl => .portT 0x03
  | .push _ => .portT 0x04
  | .pull _ _ => .portR 0x05
  | .rdcsr _ => .portT 0x06
  | .wrcsr _ _ => .portT 0x07
  | .data _ _ _ => .frame 0x01
  | .ack _ => .frame 0x02
  | .nack _ => .frame 0x03
  | .lctrl _ _ _ => .frame 0x04
  | .lctrlFin _ _ _ => .frame 0x04

/-- The tag an encoded form carries. -/
def encodedTag : Encoded → RowTag
  | .portT w _ => .portT (opcOf w)
  | .portR w => .portR (opcOf w)
  | .frame F => .frame (byteAt F 0)

/-- Family `Tag`. -/
def Tag.Statement (i : Instr) : Prop := encodedTag (encode i) = rowTag i

theorem opcOf_cmdWord (opc : Byte) (a : BitVec 16) (v : BitVec 32) : opcOf (cmdWord opc a v) = opc := by
  apply BitVec.eq_of_getElem_eq
  intro k hk
  have h1 : ¬ 56 + k < 32 := by omega
  have h2 : ¬ 56 + k - 32 < 16 := by omega
  have h3 : ¬ 56 + k - 32 - 16 < 8 := by omega
  have h4 : 56 + k - 32 - 16 - 8 = k := by omega
  simp only [opcOf, cmdWord, BitVec.getElem_extractLsb', BitVec.getLsbD_append, h1, h2, h3, h4, if_false]
  simp [hk]

theorem Tag.nop : Tag.Statement .nop := congrArg RowTag.portT (opcOf_cmdWord _ _ _)
theorem Tag.start : Tag.Statement .start := congrArg RowTag.portT (opcOf_cmdWord _ _ _)
theorem Tag.close : Tag.Statement .close := congrArg RowTag.portT (opcOf_cmdWord _ _ _)
theorem Tag.schedLctrl : Tag.Statement .schedLctrl := congrArg RowTag.portT (opcOf_cmdWord _ _ _)
theorem Tag.push (buf : List Byte) : Tag.Statement (.push buf) := congrArg RowTag.portT (opcOf_cmdWord _ _ _)
theorem Tag.pull (m : BitVec 16) (t : Ticks) : Tag.Statement (.pull m t) :=
  congrArg RowTag.portR (opcOf_cmdWord _ _ _)
theorem Tag.rdcsr (i : Byte) : Tag.Statement (.rdcsr i) := congrArg RowTag.portT (opcOf_cmdWord _ _ _)
theorem Tag.wrcsr (i : Byte) (v : BitVec 32) : Tag.Statement (.wrcsr i v) :=
  congrArg RowTag.portT (opcOf_cmdWord _ _ _)
theorem Tag.data (s a : Seq) (p : List Byte) : Tag.Statement (.data s a p) := rfl
theorem Tag.ack (a : Seq) : Tag.Statement (.ack a) := rfl
theorem Tag.nack (a : Seq) : Tag.Statement (.nack a) := rfl
theorem Tag.lctrl (r : Bool) (p : BitVec 16) (w : Byte) : Tag.Statement (.lctrl r p w) := rfl
theorem Tag.lctrlFin (r : Bool) (p : BitVec 16) (w : Byte) : Tag.Statement (.lctrlFin r p w) := rfl

end Sys2Proof.Laws
end

