-- ==== Sys2Proof/Laws/Step.lean ====
section
/-! SUPPORT. What a step can do, said once: every later fact about a step is derived from `step_cases` and
`fetch_cases`. -/

namespace Sys2Proof.Machine

/-- Every instruction has a next state: no meaning faults or refuses. -/
theorem exec_next (i : Instr) (s : State) : ∃ t, exec i s = .next t := by
  cases i <;> simp only [exec] <;>
    first
      | exact ⟨_, rfl⟩
      | (simp only [execStart, execClose, execSchedLctrl, execPush]; split <;> exact ⟨_, rfl⟩)
      | (simp only [execData, execAck, execNack]; split <;> exact ⟨_, rfl⟩)

/-- The cases of a step (R210, R211): no event offered, the event cannot be taken, reset, an event that runs no
instruction, a command, a received frame. -/
theorem step_cases {s t : State} (h : step s = .next t) :
    (s.events = [] ∧ t = s) ∨ ∃ e rest, s.events = e :: rest ∧
      ((fetch e (beginStep s rest) = .notTaken ∧ t = beginStep s rest) ∨
        fetch e (beginStep s rest) = .wasReset t ∨
        (∃ u, fetch e (beginStep s rest) = .handled u ∧ t = closing u) ∨
        (∃ i u v, fetch e (beginStep s rest) = .command i u ∧ exec i u = .next v ∧ t = closing v) ∨
        (∃ i u v, fetch e (beginStep s rest) = .received i u ∧ exec i u = .next v ∧
          t = closing (finishFlag v))) := by
  unfold step at h
  split at h
  · next h0 => exact .inl ⟨h0, by injection h with h; exact h.symm⟩
  · next e rest h0 =>
    refine .inr ⟨e, rest, h0, ?_⟩
    unfold runFetched at h
    split at h
    · next h1 => exact .inl ⟨h1, by injection h with h; exact h.symm⟩
    · next u h1 =>
      injection h with h
      exact .inr (.inl (h ▸ h1))
    · next u h1 => exact .inr (.inr (.inl ⟨u, h1, by injection h with h; exact h.symm⟩))
    · next i u h1 =>
      obtain ⟨v, hv⟩ := exec_next i u
      rw [hv, endCommand] at h
      exact .inr (.inr (.inr (.inl ⟨i, u, v, h1, hv, by injection h with h; exact h.symm⟩)))
    · next i u h1 =>
      obtain ⟨v, hv⟩ := exec_next i u
      rw [hv, endReceived] at h
      exact .inr (.inr (.inr (.inr ⟨i, u, v, h1, hv, by injection h with h; exact h.symm⟩)))

/-- Every step has a next state: the machine never faults and never refuses (93_implementation_defined.md). -/
theorem step_next (s : State) : ∃ t, step s = .next t := by
  unfold step
  split
  · exact ⟨_, rfl⟩
  · unfold runFetched
    split
    · exact ⟨_, rfl⟩
    · exact ⟨_, rfl⟩
    · exact ⟨_, rfl⟩
    · next i u _ =>
      obtain ⟨v, hv⟩ := exec_next i u
      exact ⟨closing v, by rw [hv]; rfl⟩
    · next i u _ =>
      obtain ⟨v, hv⟩ := exec_next i u
      exact ⟨closing (finishFlag v), by rw [hv]; rfl⟩

/-- What each event comes to (R210). -/
theorem fetch_cases (e : Event) (s : State) :
    fetch e s = .notTaken ∨
    (∃ w d i, e = .cmdT w d ∧ decodePortT w d = .ok i ∧ fetch e s = .command i s) ∨
    (∃ w i, e = .cmdR w ∧ s.pullPend = false ∧ decodePortR w = .ok i ∧ fetch e s = .command i s) ∨
    (∃ w d, e = .cmdT w d ∧ fetch e s = .handled (badCmdT s)) ∨
    (∃ w, e = .cmdR w ∧ s.pullPend = false ∧ fetch e s = .handled (badCmdR s)) ∨
    (∃ b, e = .rxByte b ∧ s.rxEn = true ∧ b ≠ flagByte ∧
      fetch e s = .handled (endRxByte (rxDecodeByte { s with rxEn := false } b))) ∨
    (e = .rxByte flagByte ∧ s.rxEn = true ∧ fetch e s = rxFlag { s with rxEn := false }) ∨
    (e = .txByte ∧ ∃ b rest, s.txbuf = b :: rest ∧ fetch e s = .handled (onTxByte s b rest)) ∨
    (∃ k, e = .linkFault k ∧ fetch e s = .handled (onLinkFault s k)) ∨
    (e = .tick ∧ fetch e s = .handled (onTick s)) ∨
    (e = .reset ∧ fetch e s = .wasReset (resetEvent s)) := by
  cases e with
  | cmdT w d =>
    simp only [fetch, fetchPortT]
    cases h : decodePortT w d with
    | ok i => exact .inr (.inl ⟨w, d, i, rfl, h, rfl⟩)
    | error r =>
      cases r
      case missingData => exact .inl rfl
      all_goals exact .inr (.inr (.inr (.inl ⟨w, d, rfl, rfl⟩)))
  | cmdR w =>
    simp only [fetch, fetchPortR]
    by_cases hp : s.pullPend = true
    · exact .inl (by rw [if_pos hp])
    · have hp' : s.pullPend = false := by simpa using hp
      rw [if_neg hp]
      cases h : decodePortR w with
      | ok i => exact .inr (.inr (.inl ⟨w, i, rfl, hp', h, rfl⟩))
      | error r => exact .inr (.inr (.inr (.inr (.inl ⟨w, rfl, hp', rfl⟩))))
  | rxByte b =>
    simp only [fetch, fetchRxByte]
    by_cases he : s.rxEn = true
    · rw [if_pos he]
      by_cases hb : b = flagByte
      · subst hb
        exact .inr (.inr (.inr (.inr (.inr (.inr (.inl ⟨rfl, he, by rw [if_pos rfl]⟩))))))
      · exact .inr (.inr (.inr (.inr (.inr (.inl ⟨b, rfl, he, hb, by rw [if_neg hb]⟩)))))
    · exact .inl (by rw [if_neg he])
  | txByte =>
    cases h : s.txbuf with
    | nil => exact .inl (by simp [fetch, h])
    | cons b rest =>
      exact .inr (.inr (.inr (.inr (.inr (.inr (.inr (.inl ⟨rfl, b, rest, rfl, by simp [fetch, h]⟩)))))))
  | linkFault k => exact .inr (.inr (.inr (.inr (.inr (.inr (.inr (.inr (.inl ⟨k, rfl, rfl⟩))))))))
  | tick => exact .inr (.inr (.inr (.inr (.inr (.inr (.inr (.inr (.inr (.inl ⟨rfl, rfl⟩)))))))))
  | reset => exact .inr (.inr (.inr (.inr (.inr (.inr (.inr (.inr (.inr (.inr ⟨rfl, rfl⟩)))))))))

end Sys2Proof.Machine
end

