-- ==== Sys2Proof/Tests/Slice0.lean ====
section
/-! SUPPORT. Small tests, expected values from spec/ (95_test_vectors.md where a V- name is given), and for every
statement with hypotheses a concrete state and operands that meet them (`witness_<statement>`). -/

namespace Sys2Proof.Tests

open Sys2Proof Sys2Proof.Machine

/- One theorem at a time: each of these waits for the kernel, and a thread apiece would be too many. -/
set_option Elab.async false

/-! ### Helpers -/

/-- The state an outcome answers; every outcome of this machine is a next state. -/
def stateOf : Host.Outcome State Fault Refusal → State
  | .next s => s
  | .fault _ => .reset
  | .refused _ => .reset

/-- One step on the event `e`. -/
def stepOn (e : Event) (s : State) : State := stateOf (step { s with events := [e] })

/-- The instruction a decoder answers. -/
def decoded (e : Encoded) : Option Instr :=
  match decode e with
  | .ok i => some i
  | .error _ => none

/-- A port T word as an event. -/
def wordT (w : Word64) : Event := .cmdT w []

/-- `OPEN0(p, w)` of 95_test_vectors.md on the build `b`. -/
def openOf (b : Build) (p : BitVec 16) (w : Byte) : State :=
  { State.resetOf b with
    phase := .opened, frozen := true, rxEn := true, localPkt := p, effPkt := p, localWin := w, effWin := w }

/-- `OPEN0(100, 4)`. -/
def open0 : State := openOf Build.reference 100 4

/-- A build small enough to look at whole. -/
def tiny : Build := { wMax := 4, pMax := 4, appCap := 6 }

def idle : State := State.resetOf tiny
def negotiating : State := { idle with phase := .negotiating, rxEn := true, lctrlDeadline := 500 }
def opened : State := openOf tiny 4 4
def closed : State := { idle with phase := .closed, closeCause := .localClose }
def dead : State := { idle with phase := .dead, deadCause := .rxErr }

/-- An outstanding frame that has been transmitted. -/
def sentSlot (seq : Seq) (deadline : Ticks) : SwSlot :=
  { st := .ackPending, seq := seq, len := 1, data := [(0, 0x41)], deadline := deadline }

/-- Two outstanding frames, 0 due now and 1 later. -/
def twoOut : State :=
  { opened with sndNext := 2, now := 200, sw := [sentSlot 0 200, sentSlot 1 300, {}, {}] }

/-- A frame held in the reassembly file. -/
def heldSlot (seq : Seq) (len : BitVec 16) (data : Memory) : RbSlot :=
  { valid := true, seq := seq, len := len, data := data }

/-- Frame 2 held ahead of the missing frame 0. -/
def gap : State := { opened with rb := [{}, {}, heldSlot 2 1 [(0, 0x43)], {}] }

/-- The head frame held for want of room. -/
def full : State :=
  { opened with app := [1, 2, 3, 4, 5], rb := [heldSlot 0 2 [(0, 0x41), (1, 0x42)], {}, {}, {}] }

/-- A decoder that holds the body of `ACK(0)` (V-E3) and is offered the closing flag. -/
def ackInDecoder (s : State) : State :=
  { s with
    rxs := .inframe, rxlen := 7, events := [.rxByte 0x7E],
    rxbuf := [(0, 0x02), (1, 0), (2, 0), (3, 0), (4, 0), (5, 0xFF), (6, 0xD9)] }

/-! ### Well-formedness: one ill-formed operation for each check -/

theorem test_pushTooLong : ∀ n, n = 65536 → (Instr.push (List.replicate n 0)).illFormed = some .pushTooLong := by
  intro n h
  have : 65535 < n := by omega
  clear h
  simp [Instr.illFormed, this]
theorem test_payloadTooLong : ∀ n, n = 65536 → (Instr.data 0 0 (List.replicate n 0)).illFormed = some .payloadTooLong := by
  intro n h
  have : 65535 < n := by omega
  clear h
  simp [Instr.illFormed, this]
theorem test_zeroPacketSize : (Instr.lctrl true 0 4).illFormed = some .zeroPacketSize := by decide
theorem test_zeroWindowSize : (Instr.lctrl false 100 0).illFormed = some .zeroWindowSize := by decide
theorem test_finProposalUnchecked : (Instr.lctrlFin false 0 0).wellFormed = true := by decide

/-! ### Decoding: a word or frame body of every constructor, from R95, R97 and R82 to R91 -/

theorem test_decode_nop : decoded (.portT 0x00FF123456789ABC []) = some .nop := by decide +kernel
theorem test_decode_start : decoded (.portT 0x0100000000000000 []) = some .start := by decide +kernel
theorem test_decode_close : decoded (.portT 0x0200000000000000 []) = some .close := by decide +kernel
theorem test_decode_schedLctrl : decoded (.portT 0x0300000000000000 []) = some .schedLctrl := by decide +kernel
theorem test_decode_push :
    decoded (.portT 0x0400000500000000 [0x41, 0x41, 0x41, 0x41, 0x41, 0x99])
      = some (.push [0x41, 0x41, 0x41, 0x41, 0x41]) := by decide +kernel
theorem test_decode_pull : decoded (.portR 0x05000010FFFFFFFF) = some (.pull 16 0xFFFFFFFF) := by decide +kernel
theorem test_decode_rdcsr : decoded (.portT 0x0600001B00000000 []) = some (.rdcsr 0x1B) := by decide +kernel
theorem test_decode_wrcsr : decoded (.portT 0x0700000500000109 []) = some (.wrcsr 5 0x109) := by decide +kernel
/-- V-E1. -/
theorem test_decode_data :
    decoded (.frame [0x01, 0x00, 0xFF, 0x00, 0x05, 0x41, 0x41, 0x41, 0x41, 0x41, 0x02, 0x39])
      = some (.data 0 255 [0x41, 0x41, 0x41, 0x41, 0x41]) := by decide +kernel
/-- V-E14. -/
theorem test_decode_ack : decoded (.frame [0x02, 0x00, 0xCE, 0x00, 0x00, 0x7E, 0xC3]) = some (.ack 206) := by
  decide +kernel
/-- V-E6. -/
theorem test_decode_nack : decoded (.frame [0x03, 0x00, 0x04, 0x00, 0x00, 0xDA, 0xB1]) = some (.nack 4) := by
  decide +kernel
/-- V-D17: reserved flag bits and the `ACK` field are ignored. -/
theorem test_decode_lctrl :
    decoded (.frame [0x04, 0xFD, 0x55, 0x00, 0x03, 0x00, 0x40, 0x08, 0xB6, 0x97])
      = some (.lctrl true 64 8) := by decide +kernel
/-- V-D16. -/
theorem test_decode_lctrlFin :
    decoded (.frame [0x04, 0x02, 0x00, 0x00, 0x03, 0x00, 0x00, 0x00, 0xDB, 0x87])
      = some (.lctrlFin false 0 0) := by decide +kernel

/-- The table's own numbering of a frame row: bits 15..0 are `(TYPE << 8) | SEQ`, bits 23..16 are `ACK`. -/
theorem test_decode_table :
    decodeTableWord 24 0x070200 = some (.ack 7) ∧ decodeTableWord 16 0x0402 = some (.lctrlFin false 0 0) ∧
      decodeTableWord 16 0x0400 = some (.lctrl false 1 1) ∧ decodeTableWord 64 0x0700000400000064 = some (.wrcsr 4 100) := by decide +kernel

/-- V-E2: stuffing on the wire. -/
theorem test_encodeFrame :
    encodeFrame 1 0x7E 0x7D [0x7E, 0x7D, 0x00] =
      [0x7E, 0x01, 0x7D, 0x5E, 0x7D, 0x5D, 0x00, 0x03, 0x7D, 0x5E, 0x7D, 0x5D, 0x00, 0xCD, 0x90, 0x7E] := by
  decide +kernel

/-! ### One step of each instruction -/

theorem test_nop : (stepOn (wordT 0x00FF123456789ABC) open0).out.respT = some ⟨.ok, 0, 0⟩ := by decide +kernel

/-- V-L1: `START` loads the LCTRL frame V-E7. -/
theorem test_start :
    (stepOn (wordT 0x0100000000000000) { State.reset with localPkt := 100, localWin := 4 }).txbuf =
      [0x7E, 0x04, 0x00, 0x00, 0x00, 0x03, 0x00, 0x64, 0x04, 0x71, 0xF4, 0x7E] := by decide +kernel
theorem test_start_closed :
    (stepOn (wordT 0x0100000000000000) closed).out.respT = some ⟨.closed, 0, 0⟩ := by decide +kernel

/-- P4: `CLOSE` in OPEN loads the FIN frame V-E9. -/
theorem test_close :
    (stepOn (wordT 0x0200000000000000) open0).txbuf =
      [0x7E, 0x04, 0x03, 0x00, 0x00, 0x03, 0x00, 0x64, 0x04, 0x1F, 0x5C, 0x7E] := by decide +kernel
/-- V-L4. -/
theorem test_close_idle :
    let t := stepOn (wordT 0x0200000000000000) State.reset
    t.phase = .closed ∧ t.closeCause = .localClose ∧ t.irqStatus = 0x08 ∧ t.finReq = false ∧ t.txbuf = [] ∧
      linkReleased t = true := by decide +kernel

/-- V-L4. -/
theorem test_schedLctrl_idle :
    let t := stepOn (wordT 0x0300000000000000) State.reset
    t.out.respT = some ⟨.ok, 0, 0⟩ ∧ t.lctrlReq = false := by decide +kernel
theorem test_schedLctrl_dead :
    (stepOn (wordT 0x0300000000000000) dead).out.respT = some ⟨.dead, 0, 0⟩ := by decide +kernel

/-- V-S9's shape: two chunks of at most `EFF_PKT` bytes; the first is loaded at once. -/
theorem test_push :
    let t := stepOn (.cmdT 0x0400000500000000 [1, 2, 3, 4, 5]) opened
    t.out.respT = some ⟨.ok, 5, 0⟩ ∧ t.sndNext = 2 ∧ (swAt t 0).len = 4 ∧ (swAt t 1).len = 1 ∧
      (swAt t 0).txreq = false ∧ (swAt t 1).txreq = true ∧ (swAt t 1).deadline = 200 := by decide +kernel
/-- V-S1: a full window accepts nothing. -/
theorem test_push_full :
    (stepOn (.cmdT 0x0400000100000000 [1]) { twoOut with effWin := 2 }).out.respT = some ⟨.ok, 0, 0⟩ := by
  decide +kernel

/-- V-R3 step 1. -/
theorem test_pull_timeout :
    (stepOn (.cmdR 0x0500000500000000) open0).out.respR = some ⟨.timeout, []⟩ := by decide +kernel
/-- V-R4: bytes outlive a close. -/
theorem test_pull_closed :
    let t := stepOn (.cmdR 0x0500000200000000) { closed with app := [0x74, 0x61, 0x69] }
    t.out.respR = some ⟨.ok, [0x74, 0x61]⟩ ∧ t.app = [0x69] := by decide +kernel

/-- V-H1. -/
theorem test_rdcsr_state :
    (stepOn (wordT 0x0600000300000000) open0).out.respT = some ⟨.ok, 0, 0x0A⟩ := by decide +kernel
theorem test_rdcsr_cap :
    (stepOn (wordT 0x0600000100000000) State.reset).out.respT = some ⟨.ok, 0, 0x00010008⟩ := by decide +kernel

theorem test_wrcsr_range :
    (stepOn (wordT 0x0700000500000109) State.reset).out.respT = some ⟨.badArg, 0, 0⟩ := by decide +kernel
/-- V-H2. -/
theorem test_wrcsr_w1c :
    (stepOn (wordT 0x0700001300000006) { open0 with irqStatus := 0x07 }).irqStatus = 0x01 := by decide +kernel

/-- V-R7: the last frame of a gap across the wrap delivers what waits behind it. -/
theorem test_data :
    let t := stateOf (exec (.data 254 255 [0x41]) { opened with
      rcvExp := 254, rb := [heldSlot 0 1 [(0, 0x43)], heldSlot 1 1 [(0, 0x44)], {}, heldSlot 255 1 [(0, 0x42)]] })
    t.app = [0x41, 0x42, 0x43, 0x44] ∧ t.rcvExp = 2 ∧ t.ackReq = .ack := by decide +kernel
/-- V-R1 step 2. -/
theorem test_data_ahead :
    let t := stateOf (exec (.data 2 255 [0x63]) opened)
    t.ackReq = .nack ∧ t.rcvExp = 0 ∧ (rbAt t 2).valid = true ∧ t.app = [] := by decide +kernel

/-- V-S4: acknowledgment across the wrap. -/
theorem test_ack :
    let t := stateOf (exec (.ack 255) { opened with
      sndUna := 254, sndNext := 2, sw := [sentSlot 0 200, sentSlot 1 200, sentSlot 254 200, sentSlot 255 200] })
    t.sndUna = 0 ∧ nOut t = 2 ∧ (swAt t 2).st = .free ∧ (swAt t 3).st = .free ∧ (swAt t 0).st = .ackPending ∧
      t.irqStatus = 0x02 := by decide +kernel
/-- V-S3: a number beyond the window is ignored. -/
theorem test_ack_beyond : stateOf (exec (.ack 2) twoOut) = twoOut := by decide +kernel

/-- V-S7. -/
theorem test_nack :
    let t := stateOf (exec (.nack 255) twoOut)
    (swAt t 0).st = .sent ∧ (swAt t 0).txreq = true ∧ (swAt t 0).fastrx = true ∧ (swAt t 0).deadline = 200 ∧
      t.sndUna = 0 := by decide +kernel
theorem test_nack_once :
    let s := { twoOut with sw := [{ sentSlot 0 200 with fastrx := true }, sentSlot 1 300, {}, {}] }
    stateOf (exec (.nack 255) s) = s := by decide +kernel

/-- V-L2. -/
theorem test_lctrl :
    let t := stateOf (exec (.lctrl false 64 8) { State.reset with
      phase := .negotiating, rxEn := true, localPkt := 100, localWin := 4 })
    t.phase = .opened ∧ t.effPkt = 64 ∧ t.effWin = 4 ∧ t.frozen = true ∧ t.irqStatus = 0x04 ∧
      t.lctrlReq = true := by decide +kernel
theorem test_lctrl_open : stateOf (exec (.lctrl true 32 2) open0) = open0 := by decide +kernel

/-- V-D16. -/
theorem test_lctrlFin :
    let t := stateOf (exec (.lctrlFin false 0 0) open0)
    t.phase = .closed ∧ t.closeCause = .peerFin ∧ t.irqStatus = 0x08 ∧ t.rxEn = false ∧ t.finReq = false := by
  decide +kernel

/-! ### Events -/

/-- V-D12: a flag from HUNT opens a frame and counts nothing. -/
theorem test_flag_hunt :
    stepOn (.rxByte 0x7E) opened = { opened with rxs := .inframe } := by decide +kernel
/-- R115 corner case 4: 7D 7D yields the data byte 0x5D. -/
theorem test_escaped_byte :
    let t := stepOn (.rxByte 0x7D) { opened with rxs := .inframe, rxEsc := true }
    t.rxbuf.read 0 = some 0x5D ∧ t.rxlen = 1 ∧ t.rxEsc = false ∧ t.rxEn = true := by decide +kernel
/-- V-D5: the abort sequence. -/
theorem test_abort :
    let t := stepOn (.rxByte 0x7E) { opened with rxs := .inframe, rxlen := 3, rxEsc := true }
    t.dropFormat = 1 ∧ t.rxs = .inframe ∧ t.rxlen = 0 ∧ t.rxEsc = false := by decide +kernel
/-- V-S10: with `RETRY_MAX` 0 the first timeout is fatal. -/
theorem test_exhausted :
    let t := stepOn .tick { twoOut with now := 199, retryMax := 0 }
    t.phase = .dead ∧ t.deadCause = .retryExhausted ∧ t.deadInfo = 0 ∧ t.irqStatus = 0x10 := by decide +kernel
/-- V-F3: a link fault in CLOSED drops the rest of the FIN frame. -/
theorem test_fault_closed :
    let t := stepOn (.linkFault 5) { closed with txbuf := [1, 2], txCur := .fin }
    t.phase = .closed ∧ t.deadCause = .none ∧ t.txbuf = [] ∧ linkReleased t = true := by decide +kernel
/-- A table row placed where the next step fetches runs as the first instruction after reset. -/
theorem test_withFetchWord :
    (stateOf (step (State.reset.withFetchWord 16 0x0402))).phase = .closed ∧
      (stateOf (step (State.reset.withFetchWord 16 0x0400))).phase = .opened ∧
      (stateOf (step (State.reset.withFetchWord 64 0x0100000000000000))).phase = .negotiating := by decide +kernel

/-! ### Witnesses: for every statement with hypotheses, states and operands that meet them -/

theorem decode_of_decoded {e : Encoded} {i : Instr} (h : decoded e = some i) : decode e = .ok i := by
  unfold decoded at h
  split at h
  · next h0 => rw [h0, Option.some.inj h]
  · cases h

/-- The state offered the event `e`. -/
def offered (e : Event) (s : State) : State := { s with events := [e] }

theorem witness_DecodeInvertsEncode :
    (Instr.push []).wellFormed = true ∧ (Instr.lctrl true 1 1).wellFormed = true ∧
      (Instr.lctrl false 0xFFFF 0xFF).wellFormed = true ∧ (Instr.data 255 0 [0x7E]).wellFormed = true := by
  decide +kernel

theorem witness_IgnoredFieldsAreIgnored :
    (opcOf 0x05FF000C00000001 = opcOf 0x0500000C00000001 ∧ arg16Of 0x05FF000C00000001 = arg16Of 0x0500000C00000001 ∧
      arg32Of 0x05FF000C00000001 = arg32Of 0x0500000C00000001) ∧
    (opcOf 0x03FF123456789ABC = opcOf 0x0300000000000000 ∧ (opcOf 0x03FF123456789ABC).toNat < 4) ∧
    (opcOf 0x04FF000100000007 = 4#8 ∧ opcOf 0x0400000100000000 = 4#8 ∧
      arg16Of 0x04FF000100000007 = arg16Of 0x0400000100000000) ∧
    (opcOf 0x07FFFF0400000064 = 7#8 ∧ opcOf 0x0700000400000064 = 7#8 ∧
      idxOf 0x07FFFF0400000064 = idxOf 0x0700000400000064 ∧
      arg32Of 0x07FFFF0400000064 = arg32Of 0x0700000400000064) ∧
    (opcOf 0x06FFFF1B00000007 = 6#8 ∧ opcOf 0x0600001B00000000 = 6#8 ∧
      idxOf 0x06FFFF1B00000007 = idxOf 0x0600001B00000000) := by decide +kernel

theorem witness_ReceiverRebuildsTheSentBody :
    idle.build.ok = true ∧ [0x7E#8, 0x7D, 0, 1].length ≤ idle.build.pMax ∧ ([] : List Byte).length ≤ idle.build.pMax ∧
      (1 ≤ (0x01#8).toNat ∧ (0x01#8).toNat ≤ 4) ∧ (1 ≤ (0x04#8).toNat ∧ (0x04#8).toNat ≤ 4) := by decide +kernel

theorem witness_DecoderTakesBytesOneByOne :
    (let s := offered (.rxByte 0x7D) opened;
      s.events = [.rxByte 0x7D#8] ∧ s.rxEn = true ∧ 0x7D#8 ≠ 0x7E#8) ∧
    (let s := ackInDecoder opened;
      0 < s.rxlen ∧ 6 < s.rxlen ∧ s.rxbuf.read 0 = some 0x02 ∧ s.rxbuf.read 6 = some 0xD9) ∧
    (0x7D#8 ≠ 0x7E#8 ∧ idle.rxs = .hunt) ∧
    (let s : State := { opened with rxs := .inframe };
      s.rxs = .inframe ∧ s.rxEsc = false ∧ 0x41#8 ≠ 0x7D#8 ∧ s.rxlen ≠ s.build.pMax + 7) ∧
    (let s : State := { opened with rxs := .inframe, rxEsc := true, rxlen := 10 };
      s.rxs = .inframe ∧ s.rxEsc = true ∧ s.rxlen ≠ s.build.pMax + 7) ∧
    (let s : State := { opened with rxs := .inframe, rxEsc := true, rxlen := 11 };
      s.rxs = .inframe ∧ s.rxEsc = true ∧ s.rxlen = s.build.pMax + 7) := by decide +kernel

theorem witness_StepRunsTheDecodedInstruction :
    (∃ i u, decode (.portT 0x0400000200000000 [1, 2]) = .ok i ∧
      exec i { offered (.cmdT 0x0400000200000000 [1, 2]) opened with events := [], out := {} } = .next u) ∧
    (∃ i u, (offered (.cmdR 0x0500000200000000) opened).pullPend = false ∧
      decode (.portR 0x0500000200000000) = .ok i ∧
      exec i { offered (.cmdR 0x0500000200000000) opened with events := [], out := {} } = .next u) ∧
    (∃ i u, (ackInDecoder opened).events = [.rxByte 0x7E#8] ∧ (ackInDecoder opened).rxEn = true ∧
      (ackInDecoder opened).rxs = .inframe ∧ (ackInDecoder opened).rxEsc = false ∧
      decode (.frame (rxBody (ackInDecoder opened))) = .ok i ∧ i.wellFormed = true ∧
      (∀ seq ack payload, i = .data seq ack payload → payload.length ≤
        if (ackInDecoder opened).frozen then (ackInDecoder opened).effPkt.toNat
        else (ackInDecoder opened).localPkt.toNat) ∧
      exec i { ackInDecoder opened with events := [], out := {}, rxEn := false } = .next u) := by
  refine ⟨?_, ?_, ?_⟩
  · obtain ⟨u, hu⟩ := exec_next (.push [1, 2])
      { offered (.cmdT 0x0400000200000000 [1, 2]) opened with events := [], out := {} }
    exact ⟨_, u, decode_of_decoded (by decide +kernel), hu⟩
  · obtain ⟨u, hu⟩ := exec_next (.pull 2 0)
      { offered (.cmdR 0x0500000200000000) opened with events := [], out := {} }
    exact ⟨_, u, rfl, decode_of_decoded (by decide +kernel), hu⟩
  · obtain ⟨u, hu⟩ := exec_next (.ack 0) { ackInDecoder opened with events := [], out := {}, rxEn := false }
    exact ⟨_, u, rfl, rfl, rfl, rfl, decode_of_decoded (by decide +kernel), rfl,
      fun _ _ _ h => Instr.noConfusion h, hu⟩

theorem witness_RejectedFramesAreOnlyCounted :
    (let s : State := { opened with rxs := .inframe, rxEsc := true, events := [.rxByte 0x7E] };
      s.events = [.rxByte 0x7E#8] ∧ s.rxEn = true ∧ s.rxs = .inframe ∧ s.rxEsc = true) ∧
    (let s : State := { ackInDecoder opened with rxlen := 6 };
      s.events = [.rxByte 0x7E#8] ∧ s.rxEn = true ∧ s.rxs = .inframe ∧ s.rxEsc = false ∧ 0 < s.rxlen ∧
        frameCheck s (rxBody s) = .error .format) := by decide +kernel

theorem witness_FlagAlwaysOpensAFrame :
    ((ackInDecoder opened).events = [.rxByte 0x7E#8] ∧ (ackInDecoder opened).rxEn = true ∧
      ∃ t, step (ackInDecoder opened) = .next t) ∧
    (let s := offered (.rxByte 0x7E) opened;
      s.events = [.rxByte 0x7E#8] ∧ s.rxEn = true ∧ s.rxs = .hunt) ∧
    (let s := offered (.rxByte 0x7E) { opened with rxs := .inframe };
      s.events = [.rxByte 0x7E#8] ∧ s.rxEn = true ∧ s.rxs = .inframe ∧ s.rxEsc = false ∧ s.rxlen = 0) :=
  ⟨⟨rfl, rfl, step_next _⟩, by decide +kernel, by decide +kernel⟩

theorem witness_ReservedCommandsAnswerBadCmd :
    (opcOf 0x0500000500000000).toNat = 5 ∧ 8 ≤ (opcOf 0x0800000000000000).toNat ∧
      8 ≤ (opcOf 0xFF00000000000000).toNat ∧
      ((offered (.cmdR 0x0400000000000000) opened).pullPend = false ∧ (opcOf 0x0400000000000000).toNat ≠ 5) ∧
      (opcOf 0x0600000000000000).toNat ≠ 5 := by decide +kernel

theorem witness_EventsNotTakenChangeNothing :
    State.reset.events = [] ∧
    ((offered (.rxByte 0x7E) idle).events = [.rxByte 0x7E] ∧ (offered (.rxByte 0x7E) idle).rxEn = false) ∧
    ((offered .txByte idle).events = [.txByte] ∧ (offered .txByte idle).txbuf = []) ∧
    ((offered (.cmdR 0) { opened with pullPend := true }).events = [.cmdR 0] ∧
      (offered (.cmdR 0) { opened with pullPend := true }).pullPend = true) ∧
    (opcOf 0x0400000200000000 = 4#8 ∧ [0x41#8].length < (arg16Of 0x0400000200000000).toNat) := by decide +kernel

theorem witness_StepLeavesTheMachineAtRest :
    (∃ t, step (offered .tick opened) = .next t) ∧ AtRest (offered .tick opened) ∧
      ¬ ResetOffered (offered .tick opened) := ⟨step_next _, by decide +kernel, by decide +kernel⟩

theorem witness_NopLeavesTheStateUnchanged :
    AtRest (offered (wordT 0x00FF123456789ABC) opened) ∧ opcOf 0x00FF123456789ABC = 0#8 := by decide +kernel

/-- Hypotheses that only name a phase: `START`, `CLOSE`, `SCHED_LCTRL`, LCTRL, the dropped frames. -/
theorem witness_phases :
    idle.phase = .idle ∧ negotiating.phase = .negotiating ∧ opened.phase = .opened ∧ closed.phase = .closed ∧
      dead.phase = .dead := by decide +kernel

theorem parameters_opened : Parameters opened := by decide +kernel
theorem parameters_twoOut : Parameters twoOut := by decide +kernel
theorem senderWindow_twoOut : SenderWindow twoOut := by decide +kernel
theorem parameters_gap : Parameters gap := by decide +kernel
theorem reassembly_gap : Reassembly gap := by decide +kernel
theorem parameters_full : Parameters full := by decide +kernel
theorem reassembly_full : Reassembly full := by decide +kernel

theorem witness_PushByPhase :
    (idle.phase = .idle ∧ negotiating.phase = .negotiating ∧ closed.phase = .closed ∧ dead.phase = .dead) ∧
    opened.phase = .opened ∧ opened.frozen = true ∧ Parameters opened ∧ opened.sw.length = opened.build.wMax ∧
      [1#8, 2, 3, 4, 5].length ≤ 65535 := ⟨⟨rfl, rfl, rfl, rfl⟩, rfl, rfl, parameters_opened, rfl, by decide⟩

theorem witness_PullArmsThePullRegisters : (0 : BitVec 16) = 0 ∧ (1 : BitVec 16) ≠ 0 := by decide +kernel

theorem witness_PullAnswersInOrder :
    let p (s : State) : State := { s with pullPend := true, pullMax := 1 }
    opened.pullPend = false ∧ ((p full).pullPend = true ∧ (p full).app ≠ []) ∧
    ((p closed).pullPend = true ∧ (p closed).app = [] ∧ (p closed).phase = .closed) ∧
    ((p dead).pullPend = true ∧ (p dead).app = [] ∧ (p dead).phase = .dead) ∧
    ((p opened).pullPend = true ∧ (p opened).app = [] ∧ (p opened).phase ≠ .closed ∧ (p opened).phase ≠ .dead ∧
      (p opened).pullNowait = false) ∧
    ({ p opened with pullNowait := true }.pullPend = true ∧ { p opened with pullNowait := true }.pullNowait = true ∧
      { p opened with pullNowait := true }.app = [] ∧
      { p opened with pullNowait := true }.phase ≠ .closed ∧
      { p opened with pullNowait := true }.phase ≠ .dead) := by decide +kernel

theorem witness_RdcsrReadsTheTable : idle.build.ok = true := by decide +kernel

theorem witness_WrcsrFollowsTheWriteProcedure :
    let rwi : List Nat := [0x04, 0x05, 0x06, 0x09, 0x0A, 0x0B, 0x0C]
    idle.build.ok = true ∧
    ((0x03#8).toNat ∉ rwi ∧ (0x03#8) ≠ 0x13 ∧ (0x03#8) ≠ 0x14) ∧ ((0x1B#8).toNat ∉ rwi ∧ (0x1B#8) ≠ 0x13) ∧
    ((0x0D#8).toNat ∉ rwi ∧ (0x12#8).toNat ∉ rwi ∧ (0x15#8).toNat ∉ rwi) ∧
    ((0x04#8).toNat ∈ rwi ∧ (0x0C#8).toNat ∈ rwi ∧ opened.phase ≠ .idle) ∧ idle.phase = .idle := by decide +kernel

/-- The sender's hypotheses, in a state with two outstanding frames. -/
theorem witness_sender :
    twoOut.phase = .opened ∧ Parameters twoOut ∧ twoOut.frozen = true ∧ SenderWindow twoOut :=
  ⟨rfl, parameters_twoOut, rfl, senderWindow_twoOut⟩

theorem witness_AckRetiresCumulatively :
    let n (a : Seq) : Nat := (a - twoOut.sndUna + 1).toNat
    ¬ (1 ≤ n 255 ∧ n 255 ≤ nOut twoOut) ∧ (1 ≤ n 0 ∧ n 0 ≤ nOut twoOut) ∧ (1 ≤ n 1 ∧ n 1 ≤ nOut twoOut) ∧
      ¬ (1 ≤ n 2 ∧ n 2 ≤ nOut twoOut) := by decide +kernel

theorem witness_NackRetransmitsOnce :
    let again (a : Seq) (u : State) : Prop :=
      0 < nOut u ∧ a + 1 = u.sndUna ∧ (swAt u (slotIndex u u.sndUna)).st = .ackPending ∧
        (swAt u (slotIndex u u.sndUna)).fastrx = false
    again 255 (stateOf (exec (.ack 255) twoOut)) ∧ again 0 (stateOf (exec (.ack 0) twoOut)) ∧
      ¬ again 1 (stateOf (exec (.ack 1) twoOut)) ∧ ¬ again 2 (stateOf (exec (.ack 2) twoOut)) := by decide +kernel

theorem witness_DataOutsideTheWindow :
    let d (q : Seq) : Nat := (q - opened.rcvExp).toNat
    let w : Nat := opened.effWin.toNat
    opened.phase = .opened ∧ w ≤ 128 ∧ (256 - w ≤ d 252 ∧ 256 - w ≤ d 255) ∧
      (w ≤ d 4 ∧ d 4 < 256 - w) ∧ (w ≤ d 251 ∧ d 251 < 256 - w) := by decide +kernel

theorem witness_DataAheadIsBufferedAndNacked :
    gap.phase = .opened ∧ Parameters gap ∧ gap.frozen = true ∧ Reassembly gap ∧ [0x41#8].length ≤ 65535 ∧
      (rbAt gap (slotIndex gap gap.rcvExp)).valid = false ∧
      (1 ≤ (1 - gap.rcvExp).toNat ∧ (rbAt gap (slotIndex gap 1)).valid = false) ∧
      (rbAt gap (slotIndex gap 2)).valid = true ∧
      ((3 - gap.rcvExp).toNat < gap.effWin.toNat ∧ (rbAt gap (slotIndex gap 3)).valid = false) :=
  ⟨rfl, parameters_gap, rfl, reassembly_gap, by decide +kernel⟩

theorem witness_DataExpectedIsDelivered :
    let s : State := { gap with app := [1, 2] }
    s.phase = .opened ∧ Parameters s ∧ s.frozen = true ∧ Reassembly s ∧
      ([1#8, 2, 3, 4].length ≤ 65535 ∧ [1#8, 2, 3, 4].length ≤ s.build.appCap - s.app.length) ∧
      ([] : List Byte).length ≤ s.build.appCap - s.app.length ∧
      (rbAt s (slotIndex s s.rcvExp)).valid = false :=
  ⟨rfl, by decide +kernel, rfl, by decide +kernel, by decide +kernel⟩

theorem witness_DataWaitsForRoom :
    (full.phase = .opened ∧ Parameters full ∧ full.frozen = true ∧ Reassembly full ∧
      (rbAt full (slotIndex full full.rcvExp)).valid = true ∧ (rbAt full (slotIndex full 0)).valid = true ∧
      (rbAt full (slotIndex full 3)).valid = false ∧ (3 - full.rcvExp).toNat < full.effWin.toNat) ∧
    (let s : State := { opened with app := [1, 2, 3, 4, 5] };
      s.phase = .opened ∧ Parameters s ∧ s.frozen = true ∧ Reassembly s ∧ (0 - s.rcvExp).toNat < s.effWin.toNat ∧
        0 = s.rcvExp ∧ s.build.appCap - s.app.length < [0x41#8, 0x42].length ∧
        (rbAt s (slotIndex s 0)).valid = false) :=
  ⟨⟨rfl, parameters_full, rfl, reassembly_full, by decide +kernel⟩,
    rfl, by decide +kernel, rfl, by decide +kernel, by decide +kernel⟩

theorem witness_DrainDeliversTheContiguousPrefix :
    (idle.build.ok = true ∧ idle.rb.length = idle.build.wMax) ∧
    (1 < (rbAt full 0).len.toNat ∧ (rbAt full 0).data.read 0 = some 0x41 ∧
      (rbAt full 0).data.read 1 = some 0x42) := by decide +kernel

theorem witness_BytesLeaveInTheOrderTheyCame :
    (offered .tick full).events ≠ [] ∧ ¬ ResetOffered (offered .tick full) ∧
      ∃ t, step (offered .tick full) = .next t := ⟨by decide +kernel, by decide +kernel, step_next _⟩

theorem witness_TimeoutRetransmitsOrKills :
    0 < twoOut.sw.length ∧ (swAt twoOut 0).retry.toNat + 1 ≤ twoOut.retryMax.toNat ∧
    (let s : State := { twoOut with retryMax := 1 };
      0 < s.sw.length ∧ (swAt s 0).retry.toNat + 1 ≤ s.retryMax.toNat) ∧
    (let s : State := { twoOut with retryMax := 0 };
      0 < s.sw.length ∧ s.retryMax.toNat < (swAt s 0).retry.toNat + 1) := by decide +kernel

theorem witness_DueFramesAreRetransmitted :
    (swAt twoOut (outIndex twoOut 0)).deadline = twoOut.now ∧
      (swAt twoOut (outIndex twoOut 1)).deadline ≠ twoOut.now ∧
      ∀ k < nOut twoOut, (swAt twoOut (outIndex twoOut k)).deadline = twoOut.now →
        (swAt twoOut (outIndex twoOut k)).retry.toNat < twoOut.retryMax.toNat := by decide +kernel

theorem witness_ExhaustedRetriesKillTheStream :
    let s : State := { twoOut with
      retryMax := 1, sw := [sentSlot 0 200, { sentSlot 1 200 with retry := 1 }, {}, {}] }
    s.phase = .opened ∧ Parameters s ∧ s.frozen = true ∧ SenderWindow s ∧ 1 < nOut s ∧
      (swAt s (outIndex s 1)).deadline = s.now ∧ s.retryMax.toNat ≤ (swAt s (outIndex s 1)).retry.toNat ∧
      ∀ m < 1, (swAt s (outIndex s m)).deadline = s.now →
        (swAt s (outIndex s m)).retry.toNat < s.retryMax.toNat :=
  ⟨rfl, by decide +kernel, rfl, by decide +kernel, by decide +kernel⟩

theorem witness_TickByPhase :
    (let s : State := { opened with pullPend := true, pullMax := 1 };
      s.pullPend = true ∧ s.pullInf = false ∧ s.pullDeadline = s.now) ∧ ¬ (opened.pullPend = true) ∧
    (offered .tick idle).phase = .idle ∧ (offered .tick closed).phase = .closed ∧ (offered .tick dead).phase = .dead ∧
    (let s := offered .tick { negotiating with now := 499 };
      s.phase = .negotiating ∧ s.lctrlDeadline = s.now + 1) ∧
    (let s := offered .tick negotiating;
      s.phase = .negotiating ∧ s.lctrlDeadline ≠ s.now + 1) ∧
    (offered .tick opened).phase = .opened ∧ (offered .tick opened).events = [.tick] := by decide +kernel

theorem witness_LinkFaultByPhase :
    (∀ k ∈ [0#3, 1, 6, 7], ¬ (2 ≤ k.toNat ∧ k.toNat ≤ 5)) ∧ (∀ k ∈ [2#3, 5], 2 ≤ k.toNat ∧ k.toNat ≤ 5) ∧
      (offered (.linkFault 2) opened).events = [.linkFault 2] ∧ opened.phase = .opened ∧
      negotiating.phase = .negotiating ∧ closed.phase = .closed ∧ idle.phase = .idle ∧ dead.phase = .dead := by
  decide +kernel

theorem witness_TransmitterServesByPriority :
    [0x7E#8] ≠ [] ∧
    (let s : State := { closed with finReq := true };
      s.txbuf = [] ∧ s.phase = .closed ∧ s.finReq = true) ∧
    (let s : State := { negotiating with lctrlReq := true };
      s.txbuf = [] ∧ s.phase = .negotiating ∧ s.lctrlReq = true) ∧
    (let s : State := { opened with ackReq := .ack };
      s.txbuf = [] ∧ s.phase = .opened ∧ s.lctrlReq = false ∧ s.ackReq = .ack) ∧
    (let s : State := { opened with ackReq := .nack };
      s.txbuf = [] ∧ s.phase = .opened ∧ s.lctrlReq = false ∧ s.ackReq = .nack) ∧
    (let s : State := { twoOut with
        sw := [sentSlot 0 200, { sentSlot 1 300 with st := .sent, txreq := true }, {}, {}] };
      s.txbuf = [] ∧ s.phase = .opened ∧ s.lctrlReq = false ∧ s.ackReq = .none ∧ 1 < nOut s ∧
        (swAt s (outIndex s 1)).txreq = true ∧ ∀ m < 1, (swAt s (outIndex s m)).txreq = false) ∧
    (twoOut.txbuf = [] ∧ twoOut.lctrlReq = false ∧ twoOut.ackReq = .none ∧
      ∀ k < nOut twoOut, (swAt twoOut (outIndex twoOut k)).txreq = false) ∧
    (negotiating.txbuf = [] ∧ negotiating.lctrlReq = false) ∧ (closed.txbuf = [] ∧ closed.finReq = false) ∧
    (idle.txbuf = [] ∧ dead.txbuf = []) ∧
    (0 < (swAt twoOut 0).len.toNat ∧ (swAt twoOut 0).data.read 0 = some 0x41) := by decide +kernel

theorem witness_TxByteEmitsTheHeadByte :
    let lastByte (c : TxCur) : State := { twoOut with events := [.txByte], txbuf := [0x7E], txCur := c }
    ((offered .txByte { opened with txbuf := [1, 2] }).events = [.txByte] ∧ [2#8] ≠ []) ∧
    (let s : State := { lastByte (.data 0 0) with sw := [{ sentSlot 0 200 with st := .sent }] };
      s.txCur = .data 0 0 ∧ (swAt s 0).st = .sent ∧ (swAt s 0).seq = 0 ∧ (swAt s 0).txreq = false) ∧
    ((lastByte (.data 0 0)).txCur = .data 0 0 ∧ (swAt (lastByte (.data 0 0)) 0).st ≠ .sent) ∧
    ((lastByte .ack).events = [.txByte] ∧ (lastByte .ack).txbuf = [0x7E] ∧ (lastByte .ack).txCur = .ack) := by
  decide +kernel

theorem witness_builds :
    Build.reference.ok = true ∧ ({ wMax := 1, pMax := 1, appCap := 1 } : Build).ok = true ∧
      ({ wMax := 128, pMax := 65535, appCap := 2 ^ 32 - 1 } : Build).ok = true := by decide +kernel

theorem witness_ResetEventRestoresEverything : (offered .reset dead).events = [.reset] := by decide +kernel

/-- Every row of R220: a state that meets the premises and takes that transition. -/
theorem witness_PhaseChangesOnlyAsListed :
    let lctrlIn (flags fcsLo fcsHi : Byte) (s : State) : State := { s with
      rxs := .inframe, rxlen := 10, events := [.rxByte 0x7E],
      rxbuf := [(0, 0x04), (1, flags), (2, 0), (3, 0), (4, 3), (5, 0), (6, 0x64), (7, 4), (8, fcsLo), (9, fcsHi)] }
    let goes (s : State) (p : Phase) : Prop :=
      Lifecycle s ∧ s.phase ≠ p ∧ (stateOf (step s)).phase = p ∧ ∃ t, step s = .next t
    goes (offered .reset dead) .idle ∧ goes (offered (wordT 0x0100000000000000) idle) .negotiating ∧
    goes (offered (wordT 0x0200000000000000) idle) .closed ∧ goes (lctrlIn 0 0x71 0xF4 negotiating) .opened ∧
    goes (offered (wordT 0x0200000000000000) opened) .closed ∧ goes (lctrlIn 3 0x1F 0x5C opened) .closed ∧
    goes (offered (.linkFault 5) negotiating) .dead ∧
    goes (offered .tick { twoOut with now := 199, retryMax := 0 }) .dead := by
  refine ⟨?_, ?_, ?_, ?_, ?_, ?_, ?_, ?_⟩ <;>
    exact ⟨by decide +kernel, by decide +kernel, by decide +kernel, step_next _⟩

theorem witness_TerminalPhasesAreFinal :
    Lifecycle (offered .tick closed) ∧ Lifecycle (offered .tick dead) ∧ closed.phase = .closed ∧ dead.phase = .dead ∧
      ¬ ResetOffered (offered .tick closed) ∧ ¬ ResetOffered (offered .tick dead) ∧
      (∃ t, step (offered .tick closed) = .next t) ∧ ∃ t, step (offered .tick dead) = .next t :=
  ⟨by decide +kernel, by decide +kernel, rfl, rfl, by decide +kernel, by decide +kernel, step_next _, step_next _⟩

theorem witness_LinkReleaseIsFinal :
    (Lifecycle (offered .tick closed) ∧ linkReleased (offered .tick closed) = true ∧
      ¬ ResetOffered (offered .tick closed) ∧ ∃ t, step (offered .tick closed) = .next t) ∧
    (Lifecycle (offered .tick dead) ∧ linkReleased (offered .tick dead) = true ∧
      ¬ ResetOffered (offered .tick dead) ∧ ∃ t, step (offered .tick dead) = .next t) ∧
    (Lifecycle closed ∧ linkReleased closed = true ∧ ¬ ResetOffered closed ∧ ∃ t, step closed = .next t) :=
  ⟨⟨by decide +kernel, by decide +kernel, by decide +kernel, step_next _⟩,
    ⟨by decide +kernel, by decide +kernel, by decide +kernel, step_next _⟩,
    ⟨by decide +kernel, by decide +kernel, by decide +kernel, step_next _⟩⟩

theorem witness_InterruptFlagsStayUntilCleared :
    (let s := offered .tick { opened with irqStatus := 0b10001 };
      s.irqStatus.getLsbD 0 = true ∧ s.irqStatus.getLsbD 4 = true ∧ ¬ ResetOffered s) ∧
    ∃ t, step (offered .tick { opened with irqStatus := 0b10001 }) = .next t := ⟨by decide +kernel, step_next _⟩

theorem witness_ResponseWordsCarryTheResponse :
    ([0x41#8] : List Byte).length ≤ 65535 ∧ (offered (.cmdR 0x0500000100000000) full).events ≠ [] ∧
    (∃ t, step (offered (.cmdR 0x0500000100000000) full) = .next t) ∧
    (stateOf (step (offered (.cmdR 0x0500000100000000) full))).out.respR = some ⟨.ok, [1]⟩ :=
  ⟨by decide, by decide +kernel, step_next _, by decide +kernel⟩

theorem witness_ParametersAreLocked :
    (let s := offered (wordT 0x0700000400000001) opened;
      s.phase ≠ .idle ∧ ¬ ResetOffered s ∧ Lifecycle s ∧ s.frozen = true) ∧
    ∃ t, step (offered (wordT 0x0700000400000001) opened) = .next t := ⟨by decide +kernel, step_next _⟩

/-- The premises of every `StepKeeps` statement, in a state offered an event. -/
theorem witness_StepKeeps :
    let s := offered (.cmdT 0x0400000200000000 [1, 2]) twoOut
    (Lifecycle s ∧ Parameters s ∧ SenderWindow s ∧ Transmitter s ∧ Reassembly s ∧ Buffers s ∧ Stores s) ∧
      ∃ t, step s = .next t :=
  ⟨⟨by decide +kernel, by decide +kernel, by decide +kernel, by decide +kernel, by decide +kernel, by decide +kernel,
    by decide +kernel⟩, step_next _⟩

theorem witness_ReachableStatesMeetTheInvariants :
    tiny.ok = true ∧
      ∃ t, Sys2Proof.core.run 1 { State.resetOf tiny with events := [wordT 0x0100000000000000] } = .next t := by
  obtain ⟨t, ht⟩ := step_next { State.resetOf tiny with events := [wordT 0x0100000000000000] }
  exact ⟨by decide +kernel, t, by simp only [Host.Core.run, core, ht]⟩

end Sys2Proof.Tests
end

