-- ==== Sys2Proof/Proofs/Scope.lean ====
section
/-! SUPPORT. The statements of spec/00_scope.md: the invariants at reset (R7, R52, R53), and the parameters over every
step (R7, R37, R40). What a step can do to the parameter registers is said once, in `step_parameterChange`. -/

namespace Sys2Proof.Machine

/-! ### The state after reset -/

/-- `Build.ok` written out (R7). -/
theorem Build.ok_iff (b : Build) :
    b.ok = true ↔ b.wMax ∈ [1, 2, 4, 8, 16, 32, 64, 128] ∧ (1 ≤ b.pMax ∧ b.pMax ≤ 65535) ∧
      (b.pMax ≤ b.appCap ∧ b.appCap < 2 ^ 32) := by
  simp only [Build.ok, Bool.and_eq_true, List.contains_eq_mem, decide_eq_true_eq, and_assoc]

@[simp] theorem swAt_resetOf (b : Build) (i : Nat) : swAt (State.resetOf b) i = {} := by
  simp [swAt, State.resetOf]

@[simp] theorem rbAt_resetOf (b : Build) (j : Nat) : rbAt (State.resetOf b) j = {} := by
  simp [rbAt, State.resetOf]

@[simp] theorem nOut_resetOf (b : Build) : nOut (State.resetOf b) = 0 := by
  simp [nOut, State.resetOf]

theorem lifecycle_resetOf (b : Build) : Lifecycle (State.resetOf b) := by
  simp [Lifecycle, State.resetOf]

/-- The reset values of `LOCAL_PKT` and `LOCAL_WIN` are the maxima of the build, which fit their registers (R52). -/
theorem parameters_resetOf {b : Build} (hb : b.ok = true) : Parameters (State.resetOf b) := by
  have hw := Build.ok_wMax_pos hb
  have hw' := Build.ok_wMax_le hb
  obtain ⟨hp, hp'⟩ := Build.ok_pMax hb
  have hpkt : (BitVec.ofNat 16 b.pMax).toNat = b.pMax := by rw [BitVec.toNat_ofNat]; omega
  have hwin : (BitVec.ofNat 8 b.wMax).toNat = b.wMax := by rw [BitVec.toNat_ofNat]; omega
  simp only [Parameters, State.resetOf, hpkt, hwin]
  exact ⟨hb, ⟨hp, le_rfl⟩, ⟨hw, le_rfl⟩, by decide, by decide, by decide, by simp, by simp⟩

theorem senderWindow_resetOf (b : Build) : SenderWindow (State.resetOf b) := by
  simp only [SenderWindow, nOut_resetOf, swAt_resetOf]
  exact ⟨List.length_replicate, by simp, by simp, by simp⟩

theorem transmitter_resetOf (b : Build) : Transmitter (State.resetOf b) := by
  simp only [Transmitter, swAt_resetOf]
  exact ⟨Nat.zero_le _, by simp [State.resetOf], by simp, by simp⟩

theorem reassembly_resetOf (b : Build) : Reassembly (State.resetOf b) := by
  simp only [Reassembly, rbAt_resetOf]
  exact ⟨List.length_replicate, by simp, by simp, by simp⟩

theorem buffers_resetOf (b : Build) : Buffers (State.resetOf b) := by
  simp [Buffers, State.resetOf]

theorem storeOk_nil (cap : Nat) : StoreOk [] cap := ⟨rfl, by simp⟩

theorem stores_resetOf (b : Build) : Stores (State.resetOf b) := by
  refine ⟨storeOk_nil _, fun w hw => ?_, fun r hr => ?_⟩
  · rw [List.eq_of_mem_replicate hw]
    exact storeOk_nil _
  · rw [List.eq_of_mem_replicate hr]
    exact storeOk_nil _

theorem invariants_resetOf {b : Build} (hb : b.ok = true) : Invariants (State.resetOf b) :=
  ⟨lifecycle_resetOf b, parameters_resetOf hb, senderWindow_resetOf b, transmitter_resetOf b, reassembly_resetOf b,
    buffers_resetOf b, stores_resetOf b⟩

/-- Settles O46: `Build.ok` is R7 written out, and no invariant reads the events still to be offered. -/
theorem resetMeetsTheInvariants : Obligations.ResetMeetsTheInvariants :=
  ⟨Build.ok_iff, fun _ _ hb => invariants_resetOf hb⟩

/-! ### The parameter registers -/

/-- The build, the run-time registers of class RWI (R37), and the effective values with the flag that freezes them
(R40). -/
structure ParameterRegs where
  build : Build
  localPkt : BitVec 16
  localWin : BitVec 8
  baud : BitVec 32
  rtoInit : Ticks
  rtoMax : Ticks
  retryMax : BitVec 8
  lctrlPeriod : Ticks
  frozen : Bool
  effPkt : BitVec 16
  effWin : BitVec 8

/-- The parameter registers of a state. -/
def parameterRegs (s : State) : ParameterRegs where
  build := s.build
  localPkt := s.localPkt
  localWin := s.localWin
  baud := s.baud
  rtoInit := s.rtoInit
  rtoMax := s.rtoMax
  retryMax := s.retryMax
  lctrlPeriod := s.lctrlPeriod
  frozen := s.frozen
  effPkt := s.effPkt
  effWin := s.effWin

/-- `Parameters` speaks of the parameter registers only. -/
theorem parameters_congr {s t : State} (h : parameterRegs t = parameterRegs s) (hs : Parameters s) : Parameters t := by
  simp only [parameterRegs, ParameterRegs.mk.injEq] at h
  obtain ⟨hb, hp, hw, -, hi, hm, -, hl, hf, hep, hew⟩ := h
  simpa only [Parameters, hb, hp, hw, hi, hm, hl, hf, hep, hew] using hs

/-! ### What leaves the parameter registers alone -/

@[simp] theorem parameterRegs_emitT (s : State) (st : Status) (c : BitVec 16) (v : BitVec 32) :
    parameterRegs (emitT s st c v) = parameterRegs s := rfl

@[simp] theorem parameterRegs_emitR (s : State) (st : Status) (bs : List Byte) :
    parameterRegs (emitR s st bs) = parameterRegs s := rfl

@[simp] theorem parameterRegs_fatal (s : State) (c : DeadCause) (info : Byte) :
    parameterRegs (fatal s c info) = parameterRegs s := rfl

@[simp] theorem parameterRegs_drop (s : State) (c : DropCounter) : parameterRegs (drop s c) = parameterRegs s := by
  simp [parameterRegs]

@[simp] theorem parameterRegs_doClose (s : State) (c : CloseCause) :
    parameterRegs (doClose s c) = parameterRegs s := rfl

@[simp] theorem parameterRegs_onAck (s : State) (a : Seq) : parameterRegs (onAck s a) = parameterRegs s := by
  rw [onAck_frame]; rfl

@[simp] theorem parameterRegs_onNack (s : State) (a : Seq) : parameterRegs (onNack s a) = parameterRegs s := by
  rw [onNack_frame]; rfl

@[simp] theorem parameterRegs_onFrame (s : State) (q : Seq) (p : List Byte) :
    parameterRegs (onFrame s q p) = parameterRegs s := by
  rw [onFrame_frame]; rfl

@[simp] theorem parameterRegs_pushOpen (s : State) (buf : List Byte) :
    parameterRegs (pushOpen s buf).1 = parameterRegs s := by
  rw [pushOpen, pushLoop_frame]; rfl

@[simp] theorem parameterRegs_pullCommand (s : State) (n : BitVec 16) (t : Ticks) :
    parameterRegs (pullCommand s n t) = parameterRegs s := by
  rcases pullCommand_cases s n t with ⟨-, h⟩ | ⟨-, h⟩ <;> rw [h] <;> rfl

@[simp] theorem parameterRegs_closing (s : State) : parameterRegs (closing s) = parameterRegs s := by
  obtain ⟨_, _, _, _, _, _, _, _, _, _, _, _, h⟩ := closing_frame s
  rw [h]; rfl

@[simp] theorem parameterRegs_endRxByte (s : State) : parameterRegs (endRxByte s) = parameterRegs s := by
  rw [endRxByte, rxReenable_frame]; rfl

@[simp] theorem parameterRegs_finishFlag (s : State) : parameterRegs (finishFlag s) = parameterRegs s := by
  rw [finishFlag, parameterRegs_endRxByte]; rfl

@[simp] theorem parameterRegs_rxDecodeByte (s : State) (b : Byte) :
    parameterRegs (rxDecodeByte s b) = parameterRegs s := by
  rw [rxDecodeByte_frame]; rfl

@[simp] theorem parameterRegs_onTxByte (s : State) (b : Byte) (rest : List Byte) :
    parameterRegs (onTxByte s b rest) = parameterRegs s := by
  rw [onTxByte_frame]; rfl

@[simp] theorem parameterRegs_onLinkFault (s : State) (k : BitVec 3) :
    parameterRegs (onLinkFault s k) = parameterRegs s := by
  rcases onLinkFault_cases s k with h | ⟨c, -, -, h⟩ | ⟨-, h⟩ <;> rw [h] <;> rfl

@[simp] theorem parameterRegs_senderTick (s : State) : parameterRegs (senderTick s) = parameterRegs s := by
  rcases senderTick_cases s with ⟨sw, h⟩ | ⟨-, sw, info, h⟩ <;> rw [h] <;> rfl

@[simp] theorem parameterRegs_onTick (s : State) : parameterRegs (onTick s) = parameterRegs s := by
  calc parameterRegs (onTick s)
      = parameterRegs (senderTick (lctrlTick { s with now := s.now + 1 })) := by rw [onTick, pullTick_frame]; rfl
    _ = parameterRegs (lctrlTick { s with now := s.now + 1 }) := parameterRegs_senderTick _
    _ = parameterRegs s := by rw [lctrlTick_frame]; rfl

/-! ### What changes them -/

/-- What an event other than reset can make of the parameter registers: they stay; a `WRCSR` in phase IDLE writes one
run-time register with a legal value (R38); a proposal without a zero freezes the effective values in phase NEGOTIATING
(R174, R116 step 5). -/
inductive ParameterChange (s t : State) : Prop where
  | same (h : parameterRegs t = parameterRegs s)
  | written (c : Csr) (v : BitVec 32) (hp : s.phase = .idle) (hv : csrLegal s c v = true)
      (h : parameterRegs t = parameterRegs (csrStore s c v))
  | frozen (pkt : BitVec 16) (win : Byte) (hp : s.phase = .negotiating) (hpkt : pkt ≠ 0) (hwin : win ≠ 0)
      (h : parameterRegs t = parameterRegs (freeze s pkt win))

theorem csrLegal_congr {s u : State} (h : parameterRegs u = parameterRegs s) (c : Csr) (v : BitVec 32) :
    csrLegal u c v = csrLegal s c v := by
  have hb : u.build = s.build := congrArg ParameterRegs.build h
  simp only [csrLegal, hb]

theorem parameterRegs_csrStore_congr {s u : State} (h : parameterRegs u = parameterRegs s) (c : Csr) (v : BitVec 32) :
    parameterRegs (csrStore u c v) = parameterRegs (csrStore s c v) := by
  cases c <;> simp_all [csrStore, parameterRegs]

theorem parameterRegs_freeze_congr {s u : State} (h : parameterRegs u = parameterRegs s) (pkt : BitVec 16)
    (win : Byte) : parameterRegs (freeze u pkt win) = parameterRegs (freeze s pkt win) := by
  simp_all [freeze, parameterRegs]

/-- A change carries over to states that agree in the phase and the parameter registers. -/
theorem ParameterChange.congr {s t u v : State} (hc : ParameterChange u v) (hp : u.phase = s.phase)
    (hu : parameterRegs u = parameterRegs s) (ht : parameterRegs t = parameterRegs v) : ParameterChange s t := by
  cases hc with
  | same h => exact .same (ht.trans (h.trans hu))
  | written c w hi hw h =>
    exact .written c w (hp ▸ hi) (csrLegal_congr hu c w ▸ hw)
      (ht.trans (h.trans (parameterRegs_csrStore_congr hu c w)))
  | frozen pkt win hn hpkt hwin h =>
    exact .frozen pkt win (hp ▸ hn) hpkt hwin (ht.trans (h.trans (parameterRegs_freeze_congr hu pkt win)))

/-- The registers of class RW and W1C are no parameters. -/
theorem parameterRegs_csrStore {c : Csr} (hc : csrClass c ≠ .rwi) (s : State) (v : BitVec 32) :
    parameterRegs (csrStore s c v) = parameterRegs s := by
  cases c
  case localPkt | localWin | baud | rtoInit | rtoMax | retryMax | lctrlPeriod => exact absurd rfl hc
  all_goals rfl

/-- A `WRCSR` changes no parameter, or writes one in phase IDLE with a legal value (R38). -/
theorem csrWrite_parameterRegs (s : State) (idx : Byte) (v : BitVec 32) :
    parameterRegs (csrWrite s idx v).2 = parameterRegs s ∨
    ∃ c, csrOfIndex idx = some c ∧ s.phase = .idle ∧ csrLegal s c v = true ∧
      (csrWrite s idx v).2 = csrStore s c v := by
  unfold csrWrite
  cases hi : csrOfIndex idx with
  | none => exact .inl rfl
  | some c =>
    cases hc : csrClass c with
    | ro => simp [hc]
    | rw => simp [hc, parameterRegs_csrStore]
    | w1c => simp [hc, parameterRegs_csrStore]
    | rwi =>
      by_cases hp : s.phase = .idle
      · by_cases hv : csrLegal s c v = true
        · exact .inr ⟨c, rfl, hp, hv, by simp [hc, hp, hv]⟩
        · simp [hc, hp, hv]
      · simp [hc, hp]

theorem lctrl_wellFormed_iff {rsp : Bool} {pkt : BitVec 16} {win : Byte} :
    (Instr.lctrl rsp pkt win).wellFormed = true ↔ pkt ≠ 0 ∧ win ≠ 0 := by
  simp only [Instr.wellFormed, Instr.illFormed]
  split
  · next hpkt => simp [hpkt]
  · next hpkt =>
    split
    · next hwin => simp [hwin]
    · next hwin => exact ⟨fun _ => ⟨hpkt, hwin⟩, fun _ => rfl⟩

/-- What an instruction does to the parameters; the operands of an LCTRL are well-formed (R116 step 5). -/
theorem exec_parameterChange {i : Instr} {s t : State} (hi : i.wellFormed = true) (h : exec i s = .next t) :
    ParameterChange s t := by
  cases i with
  | nop => cases h; exact .same rfl
  | start =>
    simp only [exec, execStart] at h
    split at h <;> cases h <;> exact .same rfl
  | close =>
    simp only [exec, execClose] at h
    split at h <;> cases h <;> exact .same rfl
  | schedLctrl =>
    simp only [exec, execSchedLctrl] at h
    split at h <;> cases h <;> exact .same rfl
  | push buf =>
    simp only [exec, execPush] at h
    split at h <;> cases h <;> exact .same (by simp)
  | pull n timeout => cases h; exact .same (by simp)
  | rdcsr idx => cases h; exact .same rfl
  | wrcsr idx v =>
    cases h
    rcases csrWrite_parameterRegs s idx v with hw | ⟨c, -, hp, hv, hw⟩
    · exact .same hw
    · exact .written c v hp hv (by rw [parameterRegs_emitT, hw])
  | data q a p =>
    simp only [exec, execData] at h
    split at h <;> cases h <;> exact .same (by simp)
  | ack a =>
    simp only [exec, execAck] at h
    split at h <;> cases h <;> exact .same (by simp)
  | nack a =>
    simp only [exec, execNack] at h
    split at h <;> cases h <;> exact .same (by simp)
  | lctrl rsp pkt win =>
    cases h
    obtain ⟨hpkt, hwin⟩ := lctrl_wellFormed_iff.mp hi
    rcases onLctrl_cases s rsp pkt win with ⟨hp, h⟩ | ⟨-, h⟩
    · exact .frozen pkt win hp hpkt hwin (by rw [h]; rfl)
    · exact .same (by rw [h]; rfl)
  | lctrlFin rsp pkt win => cases h; exact .same rfl

/-! ### The parameters over a step -/

/-- A command word on port T decodes to a well-formed instruction: `PUSH` takes as many bytes as `ARG16` counts. -/
theorem decodePortT_wellFormed {w : Word64} {d : List Byte} {i : Instr} (h : decodePortT w d = .ok i) :
    i.wellFormed = true := by
  unfold decodePortT at h
  split at h
  case h_5 =>
    dsimp only at h
    split at h
    · cases h
    · cases h
      have hn : (arg16Of w).toNat < 65536 := (arg16Of w).isLt
      have hl : (d.take (arg16Of w).toNat).length ≤ 65535 := by rw [List.length_take]; omega
      simp only [Instr.wellFormed, Instr.illFormed, if_neg (Nat.not_lt.mpr hl), Option.isNone_none]
  all_goals cases h
  all_goals rfl

/-- Port R carries `PULL` only, which is always well-formed. -/
theorem decodePortR_wellFormed {w : Word64} {i : Instr} (h : decodePortR w = .ok i) : i.wellFormed = true := by
  unfold decodePortR at h
  split at h
  · cases h; rfl
  · cases h

/-- What the parameters' step needs of a fetched event: only reset resets, a completed handler leaves the parameter
registers alone, and an instruction that is to run is well-formed and meets the state as it was, up to `RX_EN`. -/
def FetchLeavesParameters (e : Event) (s : State) : Fetched → Prop
  | .notTaken => True
  | .wasReset t => e = .reset ∧ t = resetEvent s
  | .handled u => parameterRegs u = parameterRegs s
  | .command i u => u = s ∧ i.wellFormed = true
  | .received i u => u = { s with rxEn := false } ∧ i.wellFormed = true

theorem rxFlag_leavesParameters (s : State) :
    FetchLeavesParameters (.rxByte flagByte) s (rxFlag { s with rxEn := false }) := by
  rcases rxFlag_cases { s with rxEn := false } with ⟨i, h, -, -, -, hi⟩ | h | ⟨c, h⟩
  · obtain ⟨-, hwf, -⟩ := frameCheck_ok hi
    rw [h]
    exact ⟨rfl, hwf⟩
  · rw [h]
    exact parameterRegs_finishFlag _
  · rw [h]
    exact (parameterRegs_finishFlag _).trans (parameterRegs_drop _ c)

theorem fetch_leavesParameters (e : Event) (s : State) : FetchLeavesParameters e s (fetch e s) := by
  rcases fetch_cases e s with h | ⟨_, _, i, -, hi, h⟩ | ⟨_, i, -, -, hi, h⟩ | ⟨_, _, -, h⟩ | ⟨_, -, -, h⟩ |
    ⟨b, -, -, -, h⟩ | ⟨he, -, h⟩ | ⟨-, b, rest, -, h⟩ | ⟨k, -, h⟩ | ⟨-, h⟩ | ⟨he, h⟩ <;> rw [h]
  case inl => trivial
  · exact ⟨rfl, decodePortT_wellFormed hi⟩
  · exact ⟨rfl, decodePortR_wellFormed hi⟩
  · exact parameterRegs_emitT _ _ _ _
  · exact parameterRegs_emitR _ _ _
  · exact (parameterRegs_endRxByte _).trans (parameterRegs_rxDecodeByte _ b)
  · exact he ▸ rxFlag_leavesParameters s
  · exact parameterRegs_onTxByte s b rest
  · exact parameterRegs_onLinkFault s k
  · exact parameterRegs_onTick s
  · exact ⟨he, rfl⟩

/-- All a step can do to the parameter registers: reset them, or one of the changes of `ParameterChange`. -/
theorem step_parameterChange {s t : State} (h : step s = .next t) :
    (ResetOffered s ∧ parameterRegs t = parameterRegs (State.resetOf s.build)) ∨ ParameterChange s t := by
  rcases step_cases h with ⟨-, rfl⟩ | ⟨e, rest, he, hc⟩
  · exact .inr (.same rfl)
  have hf := fetch_leavesParameters e (beginStep s rest)
  rcases hc with ⟨-, rfl⟩ | hr | ⟨u, hu, rfl⟩ | ⟨i, u, v, hu, hx, rfl⟩ | ⟨i, u, v, hu, hx, rfl⟩
  · exact .inr (.same rfl)
  · rw [hr] at hf
    obtain ⟨rfl, rfl⟩ := hf
    exact .inl ⟨by simp [ResetOffered, he], rfl⟩
  · rw [hu] at hf
    exact .inr (.same ((parameterRegs_closing u).trans hf))
  · rw [hu] at hf
    obtain ⟨rfl, hi⟩ := hf
    exact .inr ((exec_parameterChange hi hx).congr rfl rfl (parameterRegs_closing v))
  · rw [hu] at hf
    obtain ⟨rfl, hi⟩ := hf
    exact .inr ((exec_parameterChange hi hx).congr rfl rfl
      ((parameterRegs_closing _).trans (parameterRegs_finishFlag v)))

/-- A legal value fits the register it is written to, and is in the range of R37 there. -/
theorem parameters_csrStore {s : State} {c : Csr} {v : BitVec 32} (hs : Parameters s) (hv : csrLegal s c v = true) :
    Parameters (csrStore s c v) := by
  have hpMax := Build.ok_pMax hs.1
  have hwMax := Build.ok_wMax_le hs.1
  obtain ⟨hb, hpkt, hwin, hinit, hmax, hperiod, hfrozen, hfree⟩ := hs
  cases c
  case localPkt =>
    have hv : 1 ≤ v.toNat ∧ v.toNat ≤ s.build.pMax := by simpa [csrLegal] using hv
    have hfit : (v.setWidth 16).toNat = v.toNat := by rw [BitVec.toNat_setWidth]; omega
    exact ⟨hb, hfit.symm ▸ hv, hwin, hinit, hmax, hperiod, hfrozen, hfree⟩
  case localWin =>
    have hv : 1 ≤ v.toNat ∧ v.toNat ≤ s.build.wMax := by simpa [csrLegal] using hv
    have hfit : (v.setWidth 8).toNat = v.toNat := by rw [BitVec.toNat_setWidth]; omega
    exact ⟨hb, hpkt, hfit.symm ▸ hv, hinit, hmax, hperiod, hfrozen, hfree⟩
  case rtoInit =>
    have hv : LegalTicks v := by simpa [csrLegal, LegalTicks] using hv
    exact ⟨hb, hpkt, hwin, hv, hmax, hperiod, hfrozen, hfree⟩
  case rtoMax =>
    have hv : LegalTicks v := by simpa [csrLegal, LegalTicks] using hv
    exact ⟨hb, hpkt, hwin, hinit, hv, hperiod, hfrozen, hfree⟩
  case lctrlPeriod =>
    have hv : LegalTicks v := by simpa [csrLegal, LegalTicks] using hv
    exact ⟨hb, hpkt, hwin, hinit, hmax, hv, hfrozen, hfree⟩
  case baud | retryMax => exact ⟨hb, hpkt, hwin, hinit, hmax, hperiod, hfrozen, hfree⟩
  all_goals exact absurd hv (by simp [csrLegal])

/-- The element-wise minimum of two values from 1 on is at least 1 and no more than the local one (R174, R40). -/
theorem parameters_freeze {s : State} {pkt : BitVec 16} {win : Byte} (hs : Parameters s) (hpkt : pkt ≠ 0)
    (hwin : win ≠ 0) : Parameters (freeze s pkt win) := by
  obtain ⟨hb, hlp, hlw, hinit, hmax, hperiod, -, -⟩ := hs
  have hpkt' : 1 ≤ pkt.toNat := Nat.pos_of_ne_zero (BitVec.toNat_ne.mp hpkt)
  have hwin' : 1 ≤ win.toNat := Nat.pos_of_ne_zero (BitVec.toNat_ne.mp hwin)
  have hep : (freeze s pkt win).effPkt.toNat = min s.localPkt.toNat pkt.toNat := by
    have := pkt.isLt
    simp only [freeze, setIrq_effPkt, BitVec.toNat_ofNat]; omega
  have hew : (freeze s pkt win).effWin.toNat = min s.localWin.toNat win.toNat := by
    have := win.isLt
    simp only [freeze, setIrq_effWin, BitVec.toNat_ofNat]; omega
  refine ⟨hb, hlp, hlw, hinit, hmax, hperiod, fun _ => ?_, fun h => absurd h (by simp [freeze])⟩
  rw [hep, hew]
  exact ⟨⟨by omega, (Nat.min_le_left _ _).trans hlp.2⟩, ⟨by omega, (Nat.min_le_left _ _).trans hlw.2⟩⟩

/-- Settles O54: each change of the parameter registers that a step can make keeps their ranges. -/
theorem stepKeepsParameters : Obligations.StepKeepsParameters := by
  intro s t hs h
  rcases step_parameterChange h with ⟨-, hr⟩ | hc
  · exact parameters_congr hr (parameters_resetOf hs.1)
  cases hc with
  | same h => exact parameters_congr h hs
  | written c v _ hv h => exact parameters_congr h (parameters_csrStore hs hv)
  | frozen pkt win _ hpkt hwin h => exact parameters_congr h (parameters_freeze hs hpkt hwin)

end Sys2Proof.Machine
end

/-! SUPPORT. The statements of spec/10_state.md. First what a step can do, as one relation that every later proof splits
on (`Handler`, `step_inversion`), and one rule per shared procedure for predicates it keeps (`…_keeps`); then the
invariants of R53, and the statements that follow from them. -/

namespace Sys2Proof.Machine

/-! ### What a step can do -/

/-- What the handler of an event makes of a state, before the closing procedures: one constructor per way an event
other than reset can be taken (R210), with the condition under which it is. The frames of `RX_BYTE` run with `RX_EN`
cleared, and the decoder is re-opened behind them (R216). -/
inductive Handler (s : State) : Event → State → Prop
  /-- NOP, RDCSR, a reserved command, and every command in a phase in which it only answers. -/
  | answer (w : Word64) (d : List Byte) (st : Status) (v : BitVec 32) : Handler s (.cmdT w d) (emitT s st 0 v)
  | start (w : Word64) (d : List Byte) (hp : s.phase = .idle) : Handler s (.cmdT w d) (emitT (startStream s) .ok 0 0)
  | closeIdle (w : Word64) (d : List Byte) (hp : s.phase = .idle) :
    Handler s (.cmdT w d) (emitT (closeIdle s) .ok 0 0)
  | close (w : Word64) (d : List Byte) (hp : s.phase.live = true) :
    Handler s (.cmdT w d) (emitT (doClose s .localClose) .ok 0 0)
  | schedLctrl (w : Word64) (d : List Byte) (hp : s.phase.live = true) :
    Handler s (.cmdT w d) (emitT { s with lctrlReq := true } .ok 0 0)
  | push (w : Word64) (d buf : List Byte) (hp : s.phase = .opened) :
    Handler s (.cmdT w d) (emitT (pushOpen s buf).1 .ok (BitVec.ofNat 16 (pushOpen s buf).2) 0)
  | wrcsr (w : Word64) (d : List Byte) (hw : opcOf w = 7#8) :
    Handler s (.cmdT w d)
      (emitT (csrWrite s (idxOf w) (arg32Of w)).2 (csrWrite s (idxOf w) (arg32Of w)).1 0 0)
  | badCmdR (w : Word64) (hp : s.pullPend = false) : Handler s (.cmdR w) (badCmdR s)
  | pull (w : Word64) (n : BitVec 16) (timeout : Ticks) (hp : s.pullPend = false) :
    Handler s (.cmdR w) (pullCommand s n timeout)
  | rxByte (b : Byte) (he : s.rxEn = true) :
    Handler s (.rxByte b) (endRxByte (rxDecodeByte { s with rxEn := false } b))
  | rxFlag (b : Byte) (he : s.rxEn = true) : Handler s (.rxByte b) (finishFlag { s with rxEn := false })
  /-- A rejected frame, and a frame dropped outside phase OPEN. -/
  | rxDrop (b : Byte) (he : s.rxEn = true) (c : DropCounter) :
    Handler s (.rxByte b) (finishFlag (drop { s with rxEn := false } c))
  | data (b : Byte) (he : s.rxEn = true) (q a : Seq) (p : List Byte) (hp : s.phase = .opened)
      (hlen : p.length ≤ sizeLimit s) :
    Handler s (.rxByte b) (finishFlag (onFrame (onAck { s with rxEn := false } a) q p))
  | ack (b : Byte) (he : s.rxEn = true) (a : Seq) (hp : s.phase = .opened) :
    Handler s (.rxByte b) (finishFlag (onAck { s with rxEn := false } a))
  | nack (b : Byte) (he : s.rxEn = true) (a : Seq) (hp : s.phase = .opened) :
    Handler s (.rxByte b) (finishFlag (onNack { s with rxEn := false } a))
  | lctrl (b : Byte) (he : s.rxEn = true) (rsp : Bool) (pkt : BitVec 16) (win : Byte) :
    Handler s (.rxByte b) (finishFlag (onLctrl { s with rxEn := false } rsp pkt win))
  | lctrlFin (b : Byte) (he : s.rxEn = true) :
    Handler s (.rxByte b) (finishFlag (doClose { s with rxEn := false } .peerFin))
  | txByte (b : Byte) (rest : List Byte) (hb : s.txbuf = b :: rest) : Handler s .txByte (onTxByte s b rest)
  | linkFault (k : BitVec 3) : Handler s (.linkFault k) (onLinkFault s k)
  | tick : Handler s .tick (onTick s)

/-- A command taken on port T (R97, R186 to R194). -/
theorem handler_of_portT {s u : State} {w : Word64} {d : List Byte} {i : Instr} (hi : decodePortT w d = .ok i)
    (hx : exec i s = .next u) : Handler s (.cmdT w d) u := by
  unfold decodePortT at hi
  split at hi
  case h_1 => cases hi; cases hx; exact .answer w d _ _
  case h_2 =>
    cases hi
    simp only [exec, execStart] at hx
    split at hx <;> cases hx
    case h_1 hp => exact .start w d hp
    all_goals exact .answer w d _ _
  case h_3 =>
    cases hi
    simp only [exec, execClose] at hx
    split at hx <;> cases hx
    case h_1 hp => exact .closeIdle w d hp
    case h_2 hp => exact .close w d (by rw [hp]; rfl)
    case h_3 hp => exact .close w d (by rw [hp]; rfl)
    all_goals exact .answer w d _ _
  case h_4 =>
    cases hi
    simp only [exec, execSchedLctrl] at hx
    split at hx <;> cases hx
    case h_2 hp => exact .schedLctrl w d (by rw [hp]; rfl)
    case h_3 hp => exact .schedLctrl w d (by rw [hp]; rfl)
    all_goals exact .answer w d _ _
  case h_5 =>
    dsimp only at hi
    split at hi <;> cases hi
    simp only [exec, execPush] at hx
    split at hx <;> cases hx
    case h_3 hp => exact .push w d _ hp
    all_goals exact .answer w d _ _
  case h_7 => cases hi; cases hx; exact .answer w d _ _
  case h_8 hw =>
    cases hi; cases hx
    exact .wrcsr w d (BitVec.eq_of_toNat_eq hw)
  all_goals cases hi

/-- A command taken on port R (R99, R156). -/
theorem handler_of_portR {s u : State} {w : Word64} {i : Instr} (hp : s.pullPend = false)
    (hi : decodePortR w = .ok i) (hx : exec i s = .next u) : Handler s (.cmdR w) u := by
  unfold decodePortR at hi
  split at hi <;> cases hi
  cases hx
  exact .pull w _ _ hp

/-- A frame body decodes to a frame's instruction (R84). -/
theorem decodeFrame_isFrame {F : List Byte} {i : Instr} (h : decodeFrame F = .ok i) :
    (∃ q a p, i = .data q a p) ∨ (∃ a, i = .ack a) ∨ (∃ a, i = .nack a) ∨
    (∃ rsp pkt win, i = .lctrl rsp pkt win) ∨ (∃ rsp pkt win, i = .lctrlFin rsp pkt win) := by
  unfold decodeFrame at h
  dsimp only at h
  repeat' split at h
  all_goals cases h
  · exact .inl ⟨_, _, _, rfl⟩
  · exact .inr (.inr (.inr (.inr ⟨_, _, _, rfl⟩)))
  · exact .inr (.inr (.inr (.inl ⟨_, _, _, rfl⟩)))
  · exact .inr (.inl ⟨_, rfl⟩)
  · exact .inr (.inr (.inl ⟨_, rfl⟩))

/-- A checked frame that is dispatched (R116, R117). -/
theorem handler_of_frame {s v : State} {F : List Byte} {b : Byte} {i : Instr} (he : s.rxEn = true)
    (hi : frameCheck { s with rxEn := false } F = .ok i) (hx : exec i { s with rxEn := false } = .next v) :
    Handler s (.rxByte b) (finishFlag v) := by
  obtain ⟨hd, -, hlim⟩ := frameCheck_ok hi
  rcases decodeFrame_isFrame hd with ⟨q, a, p, rfl⟩ | ⟨a, rfl⟩ | ⟨a, rfl⟩ | ⟨rsp, pkt, win, rfl⟩ |
    ⟨rsp, pkt, win, rfl⟩
  · simp only [exec, execData] at hx
    split at hx <;> cases hx
    · next hp => exact .data b he q a p hp (by simpa [overLimit, sizeLimit] using hlim)
    · exact .rxDrop b he .seq
  · simp only [exec, execAck] at hx
    split at hx <;> cases hx
    · next hp => exact .ack b he a hp
    · exact .rxDrop b he .seq
  · simp only [exec, execNack] at hx
    split at hx <;> cases hx
    · next hp => exact .nack b he a hp
    · exact .rxDrop b he .seq
  · cases hx; exact .lctrl b he rsp pkt win
  · cases hx; exact .lctrlFin b he

/-- A flag byte that completes no checked frame. -/
theorem handler_of_rxFlag {s u : State} {b : Byte} (he : s.rxEn = true)
    (h : rxFlag { s with rxEn := false } = .handled u) : Handler s (.rxByte b) u := by
  rcases rxFlag_cases { s with rxEn := false } with ⟨i, h', -⟩ | h' | ⟨c, h'⟩ <;> rw [h'] at h <;> cases h
  · exact .rxFlag b he
  · exact .rxDrop b he c

/-- A fetched event that runs no instruction leaves what its handler leaves. -/
theorem handler_of_handled {s u : State} {e : Event} (h : fetch e s = .handled u) : Handler s e u := by
  rcases fetch_cases e s with h' | ⟨_, _, _, -, -, h'⟩ | ⟨_, _, -, -, -, h'⟩ | ⟨w, d, rfl, h'⟩ | ⟨w, rfl, hp, h'⟩ |
    ⟨b, rfl, he, -, h'⟩ | ⟨rfl, he, h'⟩ | ⟨rfl, b, rest, hb, h'⟩ | ⟨k, rfl, h'⟩ | ⟨rfl, h'⟩ | ⟨rfl, h'⟩ <;>
    rw [h'] at h
  case inr.inr.inr.inr.inr.inr.inl => exact handler_of_rxFlag he h
  all_goals cases h
  · exact .answer w d _ _
  · exact .badCmdR w hp
  · exact .rxByte b he
  · exact .txByte b rest hb
  · exact .linkFault k
  · exact .tick

/-- A fetched command leaves what its meaning leaves. -/
theorem handler_of_command {s u v : State} {e : Event} {i : Instr} (h : fetch e s = .command i u)
    (hx : exec i u = .next v) : Handler s e v := by
  rcases fetch_cases e s with h' | ⟨w, d, j, rfl, hj, h'⟩ | ⟨w, j, rfl, hp, hj, h'⟩ | ⟨_, _, -, h'⟩ | ⟨_, -, -, h'⟩ |
    ⟨_, -, -, -, h'⟩ | ⟨-, -, h'⟩ | ⟨-, _, _, -, h'⟩ | ⟨_, -, h'⟩ | ⟨-, h'⟩ | ⟨-, h'⟩ <;> rw [h'] at h
  case inr.inr.inr.inr.inr.inr.inl =>
    rcases rxFlag_cases { s with rxEn := false } with ⟨_, h', -⟩ | h' | ⟨_, h'⟩ <;> rw [h'] at h <;> cases h
  all_goals cases h
  · exact handler_of_portT hj hx
  · exact handler_of_portR hp hj hx

/-- A received frame leaves what its dispatch leaves, the decoder open again. -/
theorem handler_of_received {s u v : State} {e : Event} {i : Instr} (h : fetch e s = .received i u)
    (hx : exec i u = .next v) : Handler s e (finishFlag v) := by
  rcases fetch_cases e s with h' | ⟨_, _, _, -, -, h'⟩ | ⟨_, _, -, -, -, h'⟩ | ⟨_, _, -, h'⟩ | ⟨_, -, -, h'⟩ |
    ⟨_, -, -, -, h'⟩ | ⟨rfl, he, h'⟩ | ⟨-, _, _, -, h'⟩ | ⟨_, -, h'⟩ | ⟨-, h'⟩ | ⟨-, h'⟩ <;> rw [h'] at h
  case inr.inr.inr.inr.inr.inr.inl =>
    rcases rxFlag_cases { s with rxEn := false } with ⟨_, h', -, -, -, hi⟩ | h' | ⟨_, h'⟩ <;> rw [h'] at h <;> cases h
    exact handler_of_frame he hi hx
  all_goals cases h

/-- Only the reset event resets. -/
theorem fetch_wasReset {s u : State} {e : Event} (h : fetch e s = .wasReset u) : e = .reset ∧ u = resetEvent s := by
  have hl := fetch_leavesParameters e s
  rw [h] at hl
  exact hl

/-- All a step can do (R210, R211): nothing without an event; an event that cannot be taken is passed over; reset; or
the event's handler and the closing procedures. -/
theorem step_inversion {s t : State} (h : step s = .next t) :
    (s.events = [] ∧ t = s) ∨ ∃ e rest, s.events = e :: rest ∧
      (t = beginStep s rest ∨ (e = .reset ∧ t = resetEvent (beginStep s rest)) ∨
        ∃ u, Handler (beginStep s rest) e u ∧ t = closing u) := by
  rcases step_cases h with h0 | ⟨e, rest, he, hc⟩
  · exact .inl h0
  refine .inr ⟨e, rest, he, ?_⟩
  rcases hc with ⟨-, ht⟩ | hr | ⟨u, hu, rfl⟩ | ⟨i, u, v, hu, hx, rfl⟩ | ⟨i, u, v, hu, hx, rfl⟩
  · exact .inl ht
  · exact .inr (.inl (fetch_wasReset hr))
  · exact .inr (.inr ⟨u, handler_of_handled hu, rfl⟩)
  · exact .inr (.inr ⟨v, handler_of_command hu hx, rfl⟩)
  · exact .inr (.inr ⟨_, handler_of_received hu hx, rfl⟩)

/-- What holds before a step holds after it, if it does not read the events and outputs, holds after reset, and is kept
by every handler with the closing procedures behind it. -/
theorem step_keeps {P : State → Prop} {s t : State} (h : step s = .next t) (hs : P s)
    (hbegin : ∀ rest, P (beginStep s rest)) (hreset : ∀ rest, P (resetEvent (beginStep s rest)))
    (hhandler : ∀ rest e u, Handler (beginStep s rest) e u → P (closing u)) : P t := by
  rcases step_inversion h with ⟨-, rfl⟩ | ⟨e, rest, -, rfl | ⟨-, rfl⟩ | ⟨u, hu, rfl⟩⟩
  · exact hs
  · exact hbegin rest
  · exact hreset rest
  · exact hhandler rest e u hu

/-- The same for a step that is not reset. -/
theorem step_keeps_of_not_reset {P : State → Prop} {s t : State} (h : step s = .next t) (hr : ¬ ResetOffered s)
    (hs : P s) (hbegin : ∀ rest, P (beginStep s rest))
    (hhandler : ∀ rest e u, s.events.head? = some e → Handler (beginStep s rest) e u → P (closing u)) : P t := by
  rcases step_inversion h with ⟨-, rfl⟩ | ⟨e, rest, he, rfl | ⟨rfl, -⟩ | ⟨u, hu, rfl⟩⟩
  · exact hs
  · exact hbegin rest
  · exact absurd (by simp [ResetOffered, he]) hr
  · exact hhandler rest e u (by simp [he]) hu

/-! ### What the shared procedures keep

One rule per procedure: a predicate that each of its parts keeps, it keeps. -/

theorem closing_keeps {P : State → Prop} (hdrain : ∀ u, P u → P (drain u)) (hpull : ∀ u, P u → P (pullCheck u))
    (hkick : ∀ u, P u → P (txKick u)) {s : State} (hs : P s) : P (closing s) :=
  hkick _ (hdrain _ (hpull _ (hdrain _ hs)))

theorem drainLoop_keeps {P : State → Prop} (hdeliver : ∀ u, headReady u = true → P u → P (deliver u)) (fuel : Nat)
    {s : State} (hs : P s) : P (drainLoop fuel s).1 := by
  induction fuel generalizing s with
  | zero => exact hs
  | succ n ih =>
    simp only [drainLoop]
    split
    · next h => exact ih (hdeliver s h hs)
    · exact hs

theorem drain_keeps {P : State → Prop} (hdeliver : ∀ u, headReady u = true → P u → P (deliver u))
    (hack : ∀ u, P u → P { u with ackReq := .ack }) {s : State} (hs : P s) : P (drain s) := by
  have h := drainLoop_keeps hdeliver s.rb.length hs
  unfold drain drainCount
  dsimp only
  split
  · exact hack _ h
  · exact h

theorem onFrame_keeps {P : State → Prop} (hdrain : ∀ u, P u → P (drain u))
    (hack : ∀ u r, P u → P { u with ackReq := r }) (hdrop : ∀ u, P u → P (drop u .seq)) {s : State} {q : Seq}
    {p : List Byte} (hs : P s) (hstore : (q - s.rcvExp).toNat < s.effWin.toNat → P (store s q p)) :
    P (onFrame s q p) := by
  unfold onFrame
  dsimp only
  split
  · next h =>
    rw [ackReqUpdate_frame]
    exact hack _ _ (hdrain _ (hstore h))
  · split
    · split
      · exact hack _ _ hs
      · exact hs
    · exact hdrop _ hs

theorem scanTimers_keeps {P : State → Prop} {ks : List Nat}
    (htimeout : ∀ u, ∀ k ∈ ks, P u → P (onTimeout u (outIndex u k))) {s : State} (hs : P s) :
    P (scanTimers s ks) := by
  induction ks generalizing s with
  | nil => exact hs
  | cons k ks ih =>
    have ih := fun {u} => ih (s := u) fun u k hk => htimeout u k (List.mem_cons_of_mem _ hk)
    have hk := htimeout s k List.mem_cons_self hs
    simp only [scanTimers]
    split
    · split
      · exact hk
      · exact ih hk
    · exact ih hs

theorem senderTick_keeps {P : State → Prop} {s : State}
    (htimeout : ∀ u, ∀ k < nOut s, P u → P (onTimeout u (outIndex u k))) (hs : P s) : P (senderTick s) := by
  unfold senderTick
  split
  · exact scanTimers_keeps (fun u k hk => htimeout u k (List.mem_range.mp hk)) hs
  · exact hs

theorem onTick_keeps {P : State → Prop} {s : State}
    (hlctrl : ∀ req dl, P { s with now := s.now + 1, lctrlReq := req, lctrlDeadline := dl })
    (hsender : ∀ u, P u → P (senderTick u)) (hpull : ∀ u b, P u → P { u with pullNowait := b }) : P (onTick s) := by
  rw [onTick, pullTick_frame]
  refine hpull _ _ (hsender _ ?_)
  rw [lctrlTick_frame]
  exact hlctrl _ _

/-- Each chunk that `PUSH` sends finds the window open and holds 1 to `EFF_PKT` bytes, or none where `EFF_PKT` is 0
(R191). -/
theorem pushLoop_keeps {P : State → Prop}
    (hsend : ∀ u c, P u → nOut u < u.effWin.toNat → c.length ≤ u.effPkt.toNat →
      (1 ≤ u.effPkt.toNat → 1 ≤ c.length) → P (send u c)) (fuel : Nat) {s : State} (buf : List Byte) (hs : P s) :
    P (pushLoop fuel s buf).1 := by
  induction fuel generalizing s buf with
  | zero => exact hs
  | succ n ih =>
    simp only [pushLoop]
    split
    · next h =>
      refine ih _ (hsend s _ hs h.2 ?_ fun _ => ?_) <;> simp only [List.length_take] <;> omega
    · exact hs

/-! ### What the transmit multiplexer loads -/

/-- What `TX_KICK` can do (R212): nothing, or load one frame into the free transmitter. -/
inductive TxKick (s : State) : State → Prop
  | idle : TxKick s s
  | fin (hb : s.txbuf = []) (hp : s.phase = .closed) (hr : s.finReq = true) :
    TxKick s { loadFrame s 0x04 (lctrlFlags true s.frozen) 0x00 (localProposal s) .fin with finReq := false }
  | lctrl (hb : s.txbuf = []) (hp : s.phase.live = true) :
    TxKick s { loadFrame s 0x04 (lctrlFlags false s.frozen) 0x00 (localProposal s) .lctrl with lctrlReq := false }
  | ack (hb : s.txbuf = []) (hp : s.phase = .opened) (type : Byte) :
    TxKick s { loadFrame s type 0x00 (ackNumber s) [] .ack with ackReq := .none }
  | data (hb : s.txbuf = []) (hp : s.phase = .opened) (k : Nat) (hk : k < nOut s)
      (hr : (swAt s (outIndex s k)).txreq = true) : TxKick s (loadData s (outIndex s k))

theorem nextToSend_some {s : State} {ks : List Nat} {i : Nat} (h : nextToSend s ks = some i) :
    ∃ k ∈ ks, i = outIndex s k ∧ (swAt s i).txreq = true := by
  induction ks with
  | nil => cases h
  | cons k ks ih =>
    simp only [nextToSend] at h
    split at h
    · next hr =>
      cases h
      exact ⟨k, List.mem_cons_self, rfl, hr⟩
    · obtain ⟨m, hm, hi⟩ := ih h
      exact ⟨m, List.mem_cons_of_mem _ hm, hi⟩

theorem txKick_cases (s : State) : TxKick s (txKick s) := by
  unfold txKick
  split
  · exact .idle
  next h0 =>
  have hb : s.txbuf = [] := List.eq_nil_of_length_eq_zero (by omega)
  split
  · next h => exact .fin hb h.1 h.2
  split
  · next h => exact .lctrl hb h.1
  split
  · next h => exact .ack hb h.1 _
  split
  · next h => exact .ack hb h.1 _
  split
  · next hp =>
    split
    · exact .idle
    · next i hi =>
      obtain ⟨k, hk, rfl, hr⟩ := nextToSend_some hi
      exact .data hb hp k (List.mem_range.mp hk) hr
  · exact .idle

theorem txKick_keeps {P : State → Prop} {s : State} (h : ∀ t, TxKick s t → P t) : P (txKick s) := h _ (txKick_cases s)

/-! ### Frames of the receive pump and of `WRCSR` -/

/-- The end of an `RX_BYTE` step re-opens the decoder and renews the subscription, and nothing else (R115, R219). -/
theorem finishFlag_frame (s : State) :
    finishFlag s = { s with rxEn := (finishFlag s).rxEn, rxs := .inframe, rxlen := 0, rxEsc := false } := by
  rw [finishFlag, endRxByte, rxReenable_frame]
  rfl

/-- Once a received byte has consumed the subscription, it is renewed exactly in the live phases (R216, R219). -/
theorem endRxByte_rxEn {s : State} (h : s.rxEn = false) : (endRxByte s).rxEn = s.phase.live := by
  unfold endRxByte rxReenable
  split
  · next hl => rw [hl]
  · next hl => simp [h, hl]

/-- A byte that is no flag leaves the decoder's state, its subscription and `DROP_OVERSIZE` changed (R115, R219). -/
theorem endRxByte_rxDecodeByte_frame (s : State) (b : Byte) :
    endRxByte (rxDecodeByte s b) = { s with
      rxEn := (endRxByte (rxDecodeByte s b)).rxEn, rxs := (rxDecodeByte s b).rxs, rxEsc := (rxDecodeByte s b).rxEsc,
      rxbuf := (rxDecodeByte s b).rxbuf, rxlen := (rxDecodeByte s b).rxlen,
      dropOversize := (rxDecodeByte s b).dropOversize } := by
  rw [endRxByte, rxReenable_frame, rxDecodeByte_frame]

/-- A write of a register touches the run-time registers and the two interrupt registers only (R38). -/
theorem csrStore_frame (s : State) (c : Csr) (v : BitVec 32) :
    csrStore s c v = { s with
      localPkt := (csrStore s c v).localPkt, localWin := (csrStore s c v).localWin, baud := (csrStore s c v).baud,
      rtoInit := (csrStore s c v).rtoInit, rtoMax := (csrStore s c v).rtoMax,
      retryMax := (csrStore s c v).retryMax, lctrlPeriod := (csrStore s c v).lctrlPeriod,
      irqStatus := (csrStore s c v).irqStatus, irqEnable := (csrStore s c v).irqEnable } := by
  cases c <;> rfl

/-- `WRCSR` refuses, or stores into the register of its index (R38). -/
theorem csrWrite_cases (s : State) (idx : Byte) (v : BitVec 32) :
    (csrWrite s idx v).2 = s ∨ ∃ c, csrOfIndex idx = some c ∧ (csrWrite s idx v).2 = csrStore s c v := by
  unfold csrWrite
  split
  · exact .inl rfl
  · next c hi =>
    split
    · exact .inl rfl
    · split
      · exact .inl rfl
      · split
        · exact .inr ⟨c, hi, rfl⟩
        · exact .inl rfl
    · exact .inr ⟨c, hi, rfl⟩
    · exact .inr ⟨c, hi, rfl⟩

theorem csrWrite_keeps {P : State → Prop} {s : State} (hs : P s) (hstore : ∀ c v, P (csrStore s c v)) (idx : Byte)
    (v : BitVec 32) : P (csrWrite s idx v).2 := by
  rcases csrWrite_cases s idx v with h | ⟨c, -, h⟩ <;> rw [h]
  · exact hs
  · exact hstore c v

/-! ### Slots -/

/-- Reading slot `j` of a file after a change of slot `i`, wherever `i` is: an index outside the file writes nothing. -/
theorem getD_modify_cases {α : Type} (l : List α) (i j : Nat) (f : α → α) (d : α) :
    (l.modify i f).getD j d = l.getD j d ∨
    (j = i ∧ i < l.length ∧ (l.modify i f).getD j d = f (l.getD j d)) := by
  by_cases hi : i < l.length
  · rw [getD_modify l i j f d hi]
    by_cases hj : j = i
    · subst hj
      exact .inr ⟨rfl, hi, by simp⟩
    · exact .inl (by simp [hj])
  · exact .inl (by rw [List.modify_eq_self (Nat.le_of_not_lt hi)])

theorem swAt_modifySw_cases (s : State) (i j : Nat) (f : SwSlot → SwSlot) :
    swAt (modifySw s i f) j = swAt s j ∨ (j = i ∧ i < s.sw.length ∧ swAt (modifySw s i f) j = f (swAt s j)) :=
  getD_modify_cases s.sw i j f {}

theorem rbAt_modifyRb_cases (s : State) (i j : Nat) (f : RbSlot → RbSlot) :
    rbAt (modifyRb s i f) j = rbAt s j ∨ (j = i ∧ i < s.rb.length ∧ rbAt (modifyRb s i f) j = f (rbAt s j)) :=
  getD_modify_cases s.rb i j f {}

/-! ### `DRAIN` ends by its own test -/

theorem countP_modify_lt {α : Type} (p : α → Bool) (f : α → α) {l : List α} {i : Nat} (hi : i < l.length)
    (hp : p l[i] = true) (hf : p (f l[i]) = false) : (l.modify i f).countP p < l.countP p := by
  induction l generalizing i with
  | nil => cases hi
  | cons x l ih =>
    cases i with
    | zero =>
      have hp : p x = true := hp
      have hf : p (f x) = false := hf
      simp [hp, hf]
    | succ i =>
      have := ih (i := i) (by simpa using hi) hp hf
      simp only [List.modify_succ_cons, List.countP_cons]
      omega

/-- The number of reassembly slots that hold a frame. -/
def heldFrames (s : State) : Nat := s.rb.countP (·.valid)

theorem rbAt_of_le {s : State} {j : Nat} (h : s.rb.length ≤ j) : rbAt s j = {} := by
  simp [rbAt, List.getElem?_eq_none h]

theorem headReady_iff (s : State) :
    headReady s = true ↔ s.phase = .opened ∧ (rbAt s (slotIndex s s.rcvExp)).valid = true ∧
      (rbAt s (slotIndex s s.rcvExp)).seq = s.rcvExp ∧
      (rbAt s (slotIndex s s.rcvExp)).len.toNat ≤ s.build.appCap - s.app.length := by
  simp only [headReady, Bool.and_eq_true, beq_iff_eq, decide_eq_true_eq, and_assoc]
  rfl

/-- A head slot that holds a frame is inside the file. -/
theorem slotIndex_lt_of_headReady {s : State} (h : headReady s = true) : slotIndex s s.rcvExp < s.rb.length := by
  obtain ⟨-, hv, -⟩ := (headReady_iff s).mp h
  by_contra hi
  rw [rbAt_of_le (Nat.le_of_not_lt hi)] at hv
  cases hv

/-- Each delivery empties a slot (R153). -/
theorem heldFrames_deliver_lt {s : State} (h : headReady s = true) : heldFrames (deliver s) < heldFrames s := by
  obtain ⟨-, hv, -⟩ := (headReady_iff s).mp h
  have hi := slotIndex_lt_of_headReady h
  have hget : rbAt s (slotIndex s s.rcvExp) = s.rb[slotIndex s s.rcvExp] := by
    simp [rbAt, hi]
  rw [heldFrames, heldFrames, deliver_rb]
  exact countP_modify_lt _ _ hi (hget ▸ hv) rfl

theorem headReady_drainLoop {fuel : Nat} {s : State} (hf : heldFrames s ≤ fuel) :
    headReady (drainLoop fuel s).1 = false := by
  induction fuel generalizing s with
  | zero =>
    by_contra h
    have := heldFrames_deliver_lt (s := s) (by simpa [drainLoop] using h)
    omega
  | succ n ih =>
    simp only [drainLoop]
    split
    · next h =>
      have := heldFrames_deliver_lt h
      exact ih (by omega)
    · next h => simpa using h

/-- After `DRAIN` its loop test fails: as many rounds as there are slots are enough (log entry 13). -/
theorem headReady_drain (s : State) : headReady (drain s) = false := by
  have h : headReady (drainLoop s.rb.length s).1 = false := headReady_drainLoop List.countP_le_length
  unfold drain drainCount
  dsimp only
  split
  · exact h
  · exact h

/-- A second `DRAIN` does nothing. -/
theorem drain_eq_self {s : State} (h : headReady s = false) : drain s = s := congrArg Prod.fst (drain_stuck h)

/-! ### Reset (R52, R265) -/

/-- Settles O44: the table is `State.resetOf` written out; only the two maxima of the build need a bound, to fit their
registers. -/
theorem resetStateIsTheTable : Obligations.ResetStateIsTheTable := by
  intro b s
  have hfit : b.ok = true → s.localPkt.toNat = b.pMax ∧ s.localWin.toNat = b.wMax := by
    intro hb
    have hw := Build.ok_wMax_le hb
    have hp := Build.ok_pMax hb
    simp only [s, State.resetOf, BitVec.toNat_ofNat]
    omega
  have hsw : s.sw.length = b.wMax ∧ ∀ w ∈ s.sw, w = {} :=
    ⟨List.length_replicate, fun w hw => List.eq_of_mem_replicate hw⟩
  have hrb : s.rb.length = b.wMax ∧ ∀ r ∈ s.rb, r = {} :=
    ⟨List.length_replicate, fun r hr => List.eq_of_mem_replicate hr⟩
  refine ⟨rfl, rfl, rfl, rfl, rfl, rfl, rfl, rfl, rfl, rfl, rfl, rfl, rfl, rfl, rfl, rfl, rfl, rfl, rfl, rfl, rfl, rfl,
    rfl, hfit, rfl, rfl, rfl, rfl, rfl, rfl, rfl, rfl, rfl, rfl, rfl, rfl, rfl, ⟨hsw.1, fun w hw => ?_⟩,
    ⟨hrb.1, fun r hr => ?_⟩, rfl, rfl, rfl⟩
  · rw [hsw.2 w hw]
    exact ⟨rfl, rfl, rfl, rfl, rfl, rfl, rfl, rfl⟩
  · rw [hrb.2 r hr]
    exact ⟨rfl, rfl, rfl⟩

/-- Settles O45: the arbiter hands the reset event straight to `resetEvent`. -/
theorem resetEventRestoresEverything : Obligations.ResetEventRestoresEverything := by
  intro s rest he
  simp only [step, he, fetch, runFetched, resetEvent, beginStep_build, beginStep_events, beginStep_epoch]

/-! ### `WRCSR` (R38, R194) -/

/-- The indices of the run-time registers, locked outside phase IDLE (R37). -/
theorem csrClass_rwi_iff (idx : Byte) :
    (∃ c, csrOfIndex idx = some c ∧ csrClass c = .rwi) ↔
      idx.toNat ∈ ([0x04, 0x05, 0x06, 0x09, 0x0A, 0x0B, 0x0C] : List Nat) := by
  revert idx
  decide +kernel

/-- Only `IRQ_ENABLE` and `IRQ_STATUS` can be written in every phase (R37). -/
theorem csrClass_of_other {idx : Byte} (h : idx.toNat ∉ ([0x04, 0x05, 0x06, 0x09, 0x0A, 0x0B, 0x0C] : List Nat))
    (hs : idx ≠ 0x13#8) (he : idx ≠ 0x14#8) :
    csrOfIndex idx = none ∨ ∃ c, csrOfIndex idx = some c ∧ csrClass c = .ro := by
  revert idx
  decide +kernel

theorem csrWrite_refused {s : State} {idx : Byte} {v : BitVec 32}
    (h : csrOfIndex idx = none ∨ ∃ c, csrOfIndex idx = some c ∧ csrClass c = .ro) :
    csrWrite s idx v = (.badArg, s) := by
  unfold csrWrite
  rcases h with h | ⟨c, h, hc⟩
  · rw [h]
  · rw [h]
    dsimp only
    rw [hc]

theorem csrWrite_rwi {s : State} {idx : Byte} {v : BitVec 32} {c : Csr} (h : csrOfIndex idx = some c)
    (hc : csrClass c = .rwi) :
    csrWrite s idx v =
      if s.phase ≠ .idle then (.locked, s) else if csrLegal s c v then (.ok, csrStore s c v) else (.badArg, s) := by
  unfold csrWrite
  rw [h]
  dsimp only
  rw [hc]

/-- `WRCSR` of a run-time register in phase IDLE: the full 32-bit value decides (R38). -/
theorem exec_wrcsr_idle {s : State} {idx : Byte} {v : BitVec 32} {c : Csr} (hp : s.phase = .idle)
    (h : csrOfIndex idx = some c) (hc : csrClass c = .rwi) :
    exec (.wrcsr idx v) s =
      if csrLegal s c v then .next (emitT (csrStore s c v) .ok 0 0) else .next (emitT s .badArg 0 0) := by
  simp only [exec, execWrcsr, csrWrite_rwi h hc, hp, ne_eq, not_true_eq_false, if_false]
  split <;> rfl

/-- Settles O24: by the class of the register that the index names. -/
theorem wrcsrFollowsTheWriteProcedure : Obligations.WrcsrFollowsTheWriteProcedure := by
  intro s idx v _ answer rwi
  refine ⟨fun hrwi hs he => ?_, fun hrwi hp => ?_, fun hp => ⟨?_, ?_, ?_, ?_, ?_, ?_, ?_⟩, ?_, ?_⟩
  · simp only [exec, execWrcsr, csrWrite_refused (csrClass_of_other hrwi hs he)]
    rfl
  · obtain ⟨c, hi, hc⟩ := (csrClass_rwi_iff idx).mpr hrwi
    simp only [exec, execWrcsr, csrWrite_rwi hi hc, if_pos hp]
    rfl
  · rw [exec_wrcsr_idle hp (c := .localPkt) rfl rfl]
    simp [csrLegal, csrStore, answer, emitT]
  · rw [exec_wrcsr_idle hp (c := .localWin) rfl rfl]
    simp [csrLegal, csrStore, answer, emitT]
  · rw [exec_wrcsr_idle hp (c := .baud) rfl rfl]
    rfl
  · rw [exec_wrcsr_idle hp (c := .rtoInit) rfl rfl]
    simp [csrLegal, csrStore, answer, emitT, Nat.le_iff_lt_add_one]
  · rw [exec_wrcsr_idle hp (c := .rtoMax) rfl rfl]
    simp [csrLegal, csrStore, answer, emitT, Nat.le_iff_lt_add_one]
  · rw [exec_wrcsr_idle hp (c := .retryMax) rfl rfl]
    simp [csrLegal, csrStore, answer, emitT]
  · rw [exec_wrcsr_idle hp (c := .lctrlPeriod) rfl rfl]
    simp [csrLegal, csrStore, answer, emitT, Nat.le_iff_lt_add_one]
  · simp [exec, execWrcsr, csrWrite, csrOfIndex, csrClass, csrStore, answer, emitT]
  · simp [exec, execWrcsr, csrWrite, csrOfIndex, csrClass, csrStore, answer, emitT]

/-! ### The parameters are locked (R25, R38, R40, R75) -/

/-- Settles O52: of the changes of `ParameterChange`, a write needs phase IDLE and a freeze needs NEGOTIATING, where
`FROZEN` is 0. -/
theorem parametersAreLocked : Obligations.ParametersAreLocked := by
  refine ⟨fun s t hp hr h => ?_, fun s t hl hfr hr h => ?_⟩
  · rcases step_parameterChange h with ⟨hr', -⟩ | hc
    · exact absurd hr' hr
    cases hc with
    | same h =>
      simp only [parameterRegs, ParameterRegs.mk.injEq] at h
      obtain ⟨hb, hpkt, hwin, hbaud, hinit, hmax, hretry, hperiod, -⟩ := h
      exact ⟨hpkt, hwin, hbaud, hinit, hmax, hretry, hperiod, hb⟩
    | written _ _ hi => exact absurd hi hp
    | frozen pkt win _ _ _ h =>
      simp only [parameterRegs, freeze, ParameterRegs.mk.injEq] at h
      obtain ⟨hb, hpkt, hwin, hbaud, hinit, hmax, hretry, hperiod, -⟩ := h
      exact ⟨hpkt, hwin, hbaud, hinit, hmax, hretry, hperiod, hb⟩
  · obtain ⟨-, -, hfrozen, -⟩ := hl
    have hphase := hfrozen hfr
    rcases step_parameterChange h with ⟨hr', -⟩ | hc
    · exact absurd hr' hr
    cases hc with
    | same h =>
      simp only [parameterRegs, ParameterRegs.mk.injEq] at h
      obtain ⟨-, -, -, -, -, -, -, -, hf, hep, hew⟩ := h
      exact ⟨hf.trans hfr, hep, hew⟩
    | written _ _ hi => simp [hi] at hphase
    | frozen _ _ hn => simp [hn] at hphase

/-! ### The lifecycle registers (R24, R25, R53 (8) to (10), R238) -/

/-- `Lifecycle` without its clause about `RX_EN`, which an `RX_BYTE` step breaks and mends (R216). -/
abbrev LifecycleRest (s : State) : Prop :=
  (s.phase = .opened → s.frozen = true) ∧
  (s.frozen = true → s.phase = .opened ∨ s.phase = .closed ∨ s.phase = .dead) ∧
  (s.finReq = true → s.phase = .closed) ∧
  (s.phase = .dead ↔ s.deadCause ≠ .none) ∧
  (s.deadCause = .none → s.deadInfo = 0) ∧
  (s.phase = .closed ↔ s.closeCause ≠ .notClosed) ∧
  (s.phase = .dead → s.txbuf = [])

theorem Phase.live_iff (p : Phase) : p.live = true ↔ p = .negotiating ∨ p = .opened := by
  cases p <;> decide

theorem lifecycle_iff (s : State) : Lifecycle s ↔ s.rxEn = s.phase.live ∧ LifecycleRest s := by
  have h : (s.rxEn = true ↔ s.phase = .negotiating ∨ s.phase = .opened) ↔ s.rxEn = s.phase.live := by
    rw [← Phase.live_iff, ← Bool.eq_iff_iff]
  rw [← h]

theorem lifecycleRest_fatal {s : State} (hs : LifecycleRest s) (hp : s.phase.live = true) {c : DeadCause}
    (hc : c ≠ .none) (info : Byte) : LifecycleRest (fatal s c info) := by
  obtain ⟨-, -, hfin, -, -, hclose, -⟩ := hs
  rcases (Phase.live_iff _).mp hp with hp | hp <;> simp_all [LifecycleRest]

theorem lifecycleRest_doClose {s : State} (hs : LifecycleRest s) (hp : s.phase.live = true) {c : CloseCause}
    (hc : c ≠ .notClosed) : LifecycleRest (doClose s c) := by
  obtain ⟨-, -, -, hdead, hinfo, -, -⟩ := hs
  rcases (Phase.live_iff _).mp hp with hp | hp <;> simp_all [LifecycleRest, doClose]

theorem lifecycleRest_onLctrl {s : State} (hs : LifecycleRest s) (rsp : Bool) (pkt : BitVec 16) (win : Byte) :
    LifecycleRest (onLctrl s rsp pkt win) := by
  rcases onLctrl_cases s rsp pkt win with ⟨hp, h⟩ | ⟨-, h⟩ <;> rw [h]
  · obtain ⟨-, -, hfin, hdead, hinfo, hclose, -⟩ := hs
    simp_all [LifecycleRest, freeze]
  · exact hs

theorem lifecycle_onLinkFault {s : State} (hs : Lifecycle s) (k : BitVec 3) : Lifecycle (onLinkFault s k) := by
  rcases onLinkFault_cases s k with h | ⟨c, hc, hp, h⟩ | ⟨hp, h⟩ <;> rw [h]
  · exact hs
  · have hc : c ≠ .none := by
      rintro rfl
      unfold faultCause at hc
      split at hc <;> cases hc
    exact (lifecycle_iff _).mpr ⟨rfl, lifecycleRest_fatal ((lifecycle_iff s).mp hs).2 hp hc 0⟩
  · obtain ⟨hrx, hop, hfr, -, hdead, hinfo, hclose, -⟩ := hs
    exact ⟨hrx, hop, hfr, fun h => by simp at h, hdead, hinfo, hclose, fun _ => rfl⟩

theorem lifecycle_senderTick {s : State} (hs : Lifecycle s) : Lifecycle (senderTick s) := by
  rcases senderTick_cases s with ⟨sw, h⟩ | ⟨hp, sw, info, h⟩ <;> rw [h]
  · exact hs
  · have hrest : LifecycleRest { s with sw := sw } := ((lifecycle_iff s).mp hs).2
    exact (lifecycle_iff _).mpr ⟨rfl, lifecycleRest_fatal hrest ((Phase.live_iff _).mpr (.inr hp)) (by simp) info⟩

/-- What a received byte leaves: `RX_EN` is cleared, the frame is dispatched, and the end of the step sets it again
exactly in a live phase. -/
theorem lifecycle_finishFlag {s : State} (he : s.rxEn = false) (hs : LifecycleRest s) : Lifecycle (finishFlag s) := by
  refine (lifecycle_iff _).mpr ⟨?_, ?_⟩
  · have h := endRxByte_rxEn (s := openFrame s) he
    rw [← finishFlag] at h
    rw [h, finishFlag_frame]
    rfl
  · rw [finishFlag_frame]
    exact hs

theorem Handler.lifecycle {s u : State} {e : Event} (h : Handler s e u) (hs : Lifecycle s) : Lifecycle u := by
  obtain ⟨hrx, hrest⟩ := (lifecycle_iff s).mp hs
  cases h with
  | answer | schedLctrl | badCmdR => exact hs
  | start _ _ hp =>
    obtain ⟨-, hfr, hfin, hdead, hinfo, hclose, -⟩ := hrest
    simp_all [Lifecycle, startStream]
  | closeIdle _ _ hp =>
    obtain ⟨-, hfr, hfin, hdead, hinfo, hclose, -⟩ := hrest
    simp_all [Lifecycle, Machine.closeIdle, Phase.live]
  | close _ _ hp => exact (lifecycle_iff (doClose s .localClose)).mpr ⟨rfl, lifecycleRest_doClose hrest hp (by decide)⟩
  | push _ _ buf =>
    rw [pushOpen, pushLoop_frame]
    exact hs
  | wrcsr w =>
    refine csrWrite_keeps (P := Lifecycle) hs (fun c v => ?_) _ _
    rw [csrStore_frame]
    exact hs
  | pull _ n timeout =>
    rcases pullCommand_cases s n timeout with ⟨-, h⟩ | ⟨-, h⟩ <;> rw [h] <;> exact hs
  | rxByte b he =>
    refine (lifecycle_iff _).mpr ⟨?_, ?_⟩
    · rw [endRxByte_rxEn (by rw [rxDecodeByte_frame]), endRxByte_rxDecodeByte_frame, rxDecodeByte_frame]
    · rw [endRxByte_rxDecodeByte_frame]
      exact hrest
  | rxFlag b he => exact lifecycle_finishFlag rfl hrest
  | rxDrop b he c => exact lifecycle_finishFlag (drop_rxEn _ c) (by simpa [LifecycleRest] using hrest)
  | data b he q a p =>
    refine lifecycle_finishFlag ?_ ?_ <;> rw [onFrame_frame, onAck_frame]
    exact hrest
  | ack b he a =>
    refine lifecycle_finishFlag ?_ ?_ <;> rw [onAck_frame]
    exact hrest
  | nack b he a =>
    refine lifecycle_finishFlag ?_ ?_ <;> rw [onNack_frame]
    exact hrest
  | lctrl b he rsp pkt win =>
    refine lifecycle_finishFlag ?_ (lifecycleRest_onLctrl (s := { s with rxEn := false }) hrest rsp pkt win)
    rcases onLctrl_cases { s with rxEn := false } rsp pkt win with ⟨-, h⟩ | ⟨-, h⟩ <;> rw [h]
    rfl
  | lctrlFin b he =>
    exact lifecycle_finishFlag rfl
      (lifecycleRest_doClose (s := { s with rxEn := false }) hrest (hrx ▸ he) (by decide))
  | txByte b rest hb =>
    rw [onTxByte_frame]
    obtain ⟨hrx, hop, hfr, hfin, hdead, hinfo, hclose, htx⟩ := hs
    exact ⟨hrx, hop, hfr, hfin, hdead, hinfo, hclose, fun hp => by simp [htx hp] at hb⟩
  | linkFault k => exact lifecycle_onLinkFault hs k
  | tick => exact onTick_keeps (P := Lifecycle) (fun _ _ => hs) (fun _ => lifecycle_senderTick) (fun _ _ h => h)

theorem lifecycle_txKick {s : State} (hs : Lifecycle s) : Lifecycle (txKick s) := by
  obtain ⟨hrx, hop, hfr, hfin, hdead, hinfo, hclose, htx⟩ := hs
  have hload : s.phase ≠ .dead → ∀ l : List Byte, s.phase = .dead → l = [] := fun hp _ h => absurd h hp
  refine txKick_keeps (P := Lifecycle) fun t ht => ?_
  cases ht with
  | idle => exact ⟨hrx, hop, hfr, hfin, hdead, hinfo, hclose, htx⟩
  | fin _ hp => exact ⟨hrx, hop, hfr, fun _ => hp, hdead, hinfo, hclose, hload (by simp [hp]) _⟩
  | lctrl _ hp =>
    refine ⟨hrx, hop, hfr, hfin, hdead, hinfo, hclose, hload (fun h => ?_) _⟩
    simp [h, Phase.live] at hp
  | ack _ hp => exact ⟨hrx, hop, hfr, hfin, hdead, hinfo, hclose, hload (by simp [hp]) _⟩
  | data _ hp => exact ⟨hrx, hop, hfr, hfin, hdead, hinfo, hclose, hload (by simp [hp]) _⟩

theorem lifecycle_closing {s : State} (hs : Lifecycle s) : Lifecycle (closing s) := by
  refine closing_keeps (P := Lifecycle) (fun u hu => ?_) (fun u hu => ?_) (fun u => lifecycle_txKick) hs
  · rw [drain_frame]
    exact hu
  · rw [pullCheck_frame]
    exact hu

/-- Settles O53: every handler keeps the registers in agreement, and so do the closing procedures. -/
theorem stepKeepsLifecycle : Obligations.StepKeepsLifecycle := by
  intro s t hs h
  exact step_keeps h hs (fun _ => hs) (fun _ => lifecycle_resetOf s.build)
    (fun _ _ _ hh => lifecycle_closing (hh.lifecycle hs))

/-! ### The terminal phases (R24, R35, R178, R189, R196, R244) -/

/-- What CLOSED and DEAD leave as it is: the phase with its cause and information, the sequence registers, and the
subscription for received bytes. -/
def finalRegs (s : State) : Phase × CloseCause × DeadCause × Byte × Seq × Seq × Seq × Bool :=
  (s.phase, s.closeCause, s.deadCause, s.deadInfo, s.rcvExp, s.sndUna, s.sndNext, s.rxEn)

/-- `LINK_RELEASED` in a terminal phase, with no byte on the wire: nothing is left to transmit, and nothing asks. -/
abbrev Silent (s : State) : Prop :=
  s.txbuf = [] ∧ (s.phase = .dead ∨ (s.phase = .closed ∧ s.finReq = false)) ∧ s.out.wire = none

/-- The only events with an effect in a terminal phase are commands that answer, `PULL`, `WRCSR`, `TX_BYTE`,
`LINK_FAULT` and `TICK`. -/
theorem Handler.terminal {s u : State} {e : Event} (h : Handler s e u) (hs : Lifecycle s)
    (hp : s.phase = .closed ∨ s.phase = .dead) :
    finalRegs u = finalRegs s ∧ u.app = s.app ∧ (Silent s → Silent u) := by
  have hidle : s.phase ≠ .idle := by rcases hp with hp | hp <;> simp [hp]
  have hlive : s.phase.live = false := by rcases hp with hp | hp <;> rw [hp] <;> rfl
  have hopen : s.phase ≠ .opened := by rcases hp with hp | hp <;> simp [hp]
  have hrx : s.rxEn ≠ true := by rw [((lifecycle_iff s).mp hs).1, hlive]; simp
  cases h with
  | answer | badCmdR => exact ⟨rfl, rfl, id⟩
  | start _ _ h | closeIdle _ _ h => exact absurd h hidle
  | close _ _ h | schedLctrl _ _ h => exact absurd (hlive.symm.trans h) (by simp)
  | push _ _ _ h => exact absurd h hopen
  | rxByte _ he | rxFlag _ he | rxDrop _ he | data _ he | ack _ he | nack _ he | lctrl _ he | lctrlFin _ he =>
    exact absurd he hrx
  | wrcsr w =>
    refine csrWrite_keeps (P := fun u => finalRegs u = finalRegs s ∧ u.app = s.app ∧ (Silent s → Silent u))
      ⟨rfl, rfl, id⟩ (fun c v => ?_) _ _
    rw [csrStore_frame]
    exact ⟨rfl, rfl, id⟩
  | pull _ n timeout => rcases pullCommand_cases s n timeout with ⟨-, h⟩ | ⟨-, h⟩ <;> rw [h] <;> exact ⟨rfl, rfl, id⟩
  | txByte b rest hb =>
    rw [onTxByte_frame]
    exact ⟨rfl, rfl, fun h => absurd (hb.symm.trans h.1) (by simp)⟩
  | linkFault k =>
    rcases onLinkFault_cases s k with h | ⟨c, -, h, -⟩ | ⟨hc, h⟩
    · rw [h]
      exact ⟨rfl, rfl, id⟩
    · exact absurd (hlive.symm.trans h) (by simp)
    · rw [h]
      exact ⟨rfl, rfl, fun hq => ⟨rfl, .inr ⟨hc, rfl⟩, hq.2.2⟩⟩
  | tick =>
    have hgate : ∀ u : State, u.phase = s.phase → senderTick u = u := fun u hu => senderTick_gated (hu ▸ hopen)
    rw [onTick, hgate _ (by rw [lctrlTick_frame]), pullTick_frame, lctrlTick_frame]
    exact ⟨rfl, rfl, id⟩

/-- Outside phase OPEN nothing is delivered (R153). -/
theorem drain_of_not_opened {s : State} (hp : s.phase ≠ .opened) : drain s = s :=
  drain_eq_self (by simp [headReady, hp])

theorem closing_of_not_opened {s : State} (hp : s.phase ≠ .opened) : closing s = txKick (pullCheck s) := by
  have h : (pullCheck s).phase ≠ .opened := by rw [pullCheck_frame]; exact hp
  rw [closing, drain_of_not_opened hp, drain_of_not_opened h]

theorem pullCheck_app (s : State) : ∃ n, (pullCheck s).app = s.app.drop n := by
  rcases pullCheck_cases s with h | ⟨-, -, h⟩ | ⟨-, -, ⟨-, h⟩ | ⟨-, h⟩ | ⟨-, -, -, h⟩⟩ <;> rw [h]
  · exact ⟨0, rfl⟩
  · exact ⟨_, rfl⟩
  all_goals exact ⟨0, rfl⟩

/-- The closing procedures in a terminal phase: a pending `PULL` may be answered, and a FIN may be loaded. -/
theorem closing_terminal {s : State} (hp : s.phase = .closed ∨ s.phase = .dead) :
    finalRegs (closing s) = finalRegs s ∧ ∃ n, (closing s).app = s.app.drop n := by
  rw [closing_of_not_opened (by rcases hp with hp | hp <;> simp [hp]), txKick_frame]
  refine ⟨?_, pullCheck_app s⟩
  rw [pullCheck_frame]
  rfl

/-- With nothing left to transmit and no FIN asked for, `TX_KICK` loads nothing in a terminal phase. -/
theorem silent_txKick {s : State} (hs : Silent s) : Silent (txKick s) := by
  obtain ⟨hb, hp, hw⟩ := hs
  refine txKick_keeps (P := Silent) fun t ht => ?_
  cases ht with
  | idle => exact ⟨hb, hp, hw⟩
  | fin _ _ hr => rcases hp with hp | ⟨-, hf⟩ <;> simp_all
  | lctrl _ h => rcases hp with hp | ⟨hp, -⟩ <;> simp [hp, Phase.live] at h
  | ack _ h | data _ h => rcases hp with hp | ⟨hp, -⟩ <;> simp [hp] at h

theorem silent_pullCheck {s : State} (hs : Silent s) : Silent (pullCheck s) := by
  rcases pullCheck_cases s with h | ⟨-, -, h⟩ | ⟨-, -, ⟨-, h⟩ | ⟨-, h⟩ | ⟨-, -, -, h⟩⟩ <;> rw [h] <;> exact hs

theorem silent_closing {s : State} (hs : Silent s) : Silent (closing s) := by
  rw [closing_of_not_opened (by rcases hs.2.1 with hp | ⟨hp, -⟩ <;> simp [hp])]
  exact silent_txKick (silent_pullCheck hs)

/-- Settles O48: no handler and no closing procedure writes the final registers in a terminal phase, and `APP` loses
bytes to `PULL_CHECK` only. -/
theorem terminalPhasesAreFinal : Obligations.TerminalPhasesAreFinal := by
  intro s t hs hp hr h
  have hrx : s.rxEn = false := by
    rw [((lifecycle_iff s).mp hs).1]
    rcases hp with hp | hp <;> rw [hp] <;> rfl
  have key : finalRegs t = finalRegs s ∧ ∃ n, t.app = s.app.drop n := by
    refine step_keeps_of_not_reset (P := fun t => finalRegs t = finalRegs s ∧ ∃ n, t.app = s.app.drop n) h hr
      ⟨rfl, 0, rfl⟩ (fun _ => ⟨rfl, 0, rfl⟩) fun rest e u _ hh => ?_
    obtain ⟨hregs, happ, -⟩ := hh.terminal hs hp
    have hphase : u.phase = s.phase := congrArg Prod.fst hregs
    obtain ⟨hregs', n, happ'⟩ := closing_terminal (hphase ▸ hp)
    exact ⟨hregs'.trans hregs, n, happ'.trans (by rw [happ]; rfl)⟩
  obtain ⟨hregs, happ⟩ := key
  simp only [finalRegs, Prod.mk.injEq] at hregs
  obtain ⟨h1, h2, h3, h4, h5, h6, h7, h8⟩ := hregs
  exact ⟨h1, h2, h3, h4, h5, h6, h7, h8.trans hrx, happ⟩

theorem linkReleased_iff (s : State) :
    linkReleased s = true ↔ s.phase = .dead ∨ (s.phase = .closed ∧ s.txbuf = [] ∧ s.finReq = false) := by
  simp [linkReleased, and_assoc]

/-- Settles O49: a released link is silent once the step's outputs are cleared, and stays so. -/
theorem linkReleaseIsFinal : Obligations.LinkReleaseIsFinal := by
  refine ⟨linkReleased_iff, fun s t hs hl hr h => ?_⟩
  have hbegin : ∀ rest, Silent (beginStep s rest) := by
    obtain ⟨-, -, -, -, -, -, -, hdead⟩ := hs
    rcases (linkReleased_iff s).mp hl with hp | ⟨hp, hb, hf⟩
    · exact fun _ => ⟨hdead hp, .inl hp, rfl⟩
    · exact fun _ => ⟨hb, .inr ⟨hp, hf⟩, rfl⟩
  have hreleased : ∀ u, Silent u → linkReleased u = true := fun u ⟨hb, hp, _⟩ =>
    (linkReleased_iff u).mpr (hp.imp_right fun ⟨hp, hf⟩ => ⟨hp, hb, hf⟩)
  rcases step_inversion h with ⟨he, rfl⟩ | ⟨e, rest, he, hc⟩
  · exact ⟨hl, by rw [if_pos he]⟩
  have ht : Silent t := by
    rcases hc with rfl | ⟨rfl, -⟩ | ⟨u, hu, rfl⟩
    · exact hbegin rest
    · exact absurd (by simp [ResetOffered, he]) hr
    · have hp : s.phase = .closed ∨ s.phase = .dead :=
        ((linkReleased_iff s).mp hl).symm.imp_left fun h => h.1
      obtain ⟨-, -, hsilent⟩ := hu.terminal hs hp
      exact silent_closing (hsilent (hbegin rest))
  exact ⟨hreleased t ht, by rw [if_neg (by simp [he])]; exact ht.2.2⟩

/-! ### The notification flags (R34, R38, R240, R241) -/

/-- The flags of `s` are still set in `u`, and the mask is the same. -/
abbrev IrqKept (s u : State) : Prop :=
  (∀ i, s.irqStatus.getLsbD i = true → u.irqStatus.getLsbD i = true) ∧ u.irqEnable = s.irqEnable

theorem irqKept_setIrq {s u : State} (h : IrqKept s u) (f : IrqFlag) : IrqKept s (setIrq u f) :=
  ⟨fun i hi => by simp [setIrq, h.1 i hi], h.2⟩

theorem irqKept_deliver {s u : State} (h : IrqKept s u) : IrqKept s (deliver u) := by
  unfold deliver
  dsimp only
  split
  · exact irqKept_setIrq h .rxData
  · exact h

theorem irqKept_drain {s u : State} (h : IrqKept s u) : IrqKept s (drain u) :=
  drain_keeps (P := IrqKept s) (fun _ _ => irqKept_deliver) (fun _ h => h) h

theorem irqKept_closing {s u : State} (h : IrqKept s u) : IrqKept s (closing u) := by
  refine closing_keeps (P := IrqKept s) (fun _ => irqKept_drain) (fun u hu => ?_) (fun u hu => ?_) h
  · rw [pullCheck_frame]
    exact hu
  · rw [txKick_frame]
    exact hu

theorem irqKept_onAck {s u : State} (h : IrqKept s u) (a : Seq) : IrqKept s (onAck u a) := by
  unfold onAck
  split
  · exact irqKept_setIrq h .txSpace
  · exact h

theorem irqKept_onFrame {s u : State} (h : IrqKept s u) (q : Seq) (p : List Byte) : IrqKept s (onFrame u q p) := by
  refine onFrame_keeps (P := IrqKept s) (fun _ => irqKept_drain) (fun _ _ h => h) (fun _ h => h) h fun _ => ?_
  rw [store_frame]
  exact h

theorem irqKept_finishFlag {s u : State} (h : IrqKept s u) : IrqKept s (finishFlag u) := by
  rw [finishFlag_frame]
  exact h

theorem irqKept_senderTick {s u : State} (h : IrqKept s u) : IrqKept s (senderTick u) := by
  rcases senderTick_cases u with ⟨sw, hu⟩ | ⟨-, sw, info, hu⟩ <;> rw [hu]
  · exact h
  · exact irqKept_setIrq h .dead

theorem csrOfIndex_irqStatus {idx : Byte} (h : csrOfIndex idx = some .irqStatus) : idx = 0x13#8 := by
  revert idx
  decide +kernel

theorem csrOfIndex_irqEnable {idx : Byte} (h : csrOfIndex idx = some .irqEnable) : idx = 0x14#8 := by
  revert idx
  decide +kernel

/-- What a handler can do to the flags and the mask: set flags, or a `WRCSR` of one of the two registers. -/
theorem Handler.irq {s u : State} {e : Event} (h : Handler s e u) :
    IrqKept s u ∨ ∃ w d, e = .cmdT w d ∧ opcOf w = 7#8 ∧
      ((idxOf w = 0x13#8 ∧ u.irqStatus = s.irqStatus &&& ~~~ (arg32Of w).setWidth 5 ∧ u.irqEnable = s.irqEnable) ∨
        (idxOf w = 0x14#8 ∧ u.irqStatus = s.irqStatus ∧ u.irqEnable = (arg32Of w).setWidth 5)) := by
  have hs : IrqKept s s := ⟨fun _ h => h, rfl⟩
  have hrx : IrqKept s { s with rxEn := false } := hs
  cases h with
  | wrcsr w d hw =>
    rcases csrWrite_cases s (idxOf w) (arg32Of w) with h | ⟨c, hc, h⟩ <;> rw [h]
    · exact .inl hs
    · cases c
      case irqStatus => exact .inr ⟨w, d, rfl, hw, .inl ⟨csrOfIndex_irqStatus hc, rfl, rfl⟩⟩
      case irqEnable => exact .inr ⟨w, d, rfl, hw, .inr ⟨csrOfIndex_irqEnable hc, rfl, rfl⟩⟩
      all_goals exact .inl hs
  | answer | start | schedLctrl | badCmdR => exact .inl hs
  | closeIdle | close => exact .inl (irqKept_setIrq hs .closed)
  | push _ _ buf =>
    refine .inl ?_
    rw [pushOpen, pushLoop_frame]
    exact hs
  | pull _ n timeout => rcases pullCommand_cases s n timeout with ⟨-, h⟩ | ⟨-, h⟩ <;> rw [h] <;> exact .inl hs
  | rxByte b =>
    rw [endRxByte_rxDecodeByte_frame]
    exact .inl hs
  | rxFlag => exact .inl (irqKept_finishFlag hs)
  | rxDrop b he c => exact .inl (irqKept_finishFlag (by simp [IrqKept]))
  | data b he q a p => exact .inl (irqKept_finishFlag (irqKept_onFrame (irqKept_onAck hrx a) q p))
  | ack b he a => exact .inl (irqKept_finishFlag (irqKept_onAck hrx a))
  | nack b he a =>
    refine .inl (irqKept_finishFlag ?_)
    unfold onNack
    dsimp only
    split
    · rw [fastRetransmit_frame]
      exact irqKept_onAck hrx a
    · exact irqKept_onAck hrx a
  | lctrl b he rsp pkt win =>
    refine .inl (irqKept_finishFlag ?_)
    rcases onLctrl_cases { s with rxEn := false } rsp pkt win with ⟨-, h⟩ | ⟨-, h⟩ <;> rw [h]
    · exact irqKept_setIrq hs .negotiated
    · exact hs
  | lctrlFin => exact .inl (irqKept_finishFlag (irqKept_setIrq hs .closed))
  | txByte b rest =>
    rw [onTxByte_frame]
    exact .inl hs
  | linkFault k =>
    refine .inl ?_
    rcases onLinkFault_cases s k with h | ⟨c, -, -, h⟩ | ⟨-, h⟩ <;> rw [h]
    · exact hs
    · exact irqKept_setIrq hs .dead
    · exact hs
  | tick =>
    exact .inl (onTick_keeps (P := IrqKept s) (fun _ _ => hs) (fun _ => irqKept_senderTick) (fun _ _ h => h))

theorem bitVec_ne_zero_iff {w : Nat} (x : BitVec w) : x ≠ 0 ↔ ∃ i < w, x.getLsbD i = true := by
  constructor
  · intro h
    by_contra hno
    push Not at hno
    exact h (BitVec.eq_of_getLsbD_eq fun i hi => by simpa using hno i hi)
  · rintro ⟨i, -, hi⟩ rfl
    simp at hi

/-- Settles O50: beside `WRCSR` every handler, and every closing procedure, only sets flags. -/
theorem interruptFlagsStayUntilCleared : Obligations.InterruptFlagsStayUntilCleared := by
  refine ⟨fun s t i h hr hi => ?_, fun s t h hr => ?_, fun s => ?_⟩
  · refine step_keeps_of_not_reset (P := fun t => t.irqStatus.getLsbD i = true ∨ _) h hr (.inl hi) (fun _ => .inl hi)
      fun rest e u he hh => ?_
    obtain ⟨hclosing, -⟩ := irqKept_closing (s := u) ⟨fun _ h => h, rfl⟩
    rcases hh.irq with hk | ⟨w, d, rfl, hw, ⟨hidx, hu, -⟩ | ⟨-, hu, -⟩⟩
    · exact .inl (hclosing i (hk.1 i hi))
    · by_cases hv : (arg32Of w).getLsbD i = true
      · exact .inr ⟨w, d, he, hw, hidx, hv⟩
      · have hi5 : i < 5 := BitVec.lt_of_getLsbD hi
        have hi' : (beginStep s rest).irqStatus.getLsbD i = true := hi
        exact .inl (hclosing i (by simp [hu, hi, hi5, hv]))
    · exact .inl (hclosing i (hu ▸ hi))
  · refine step_keeps_of_not_reset (P := fun t => t.irqEnable = s.irqEnable ∨ ∃ w d,
        s.events.head? = some (.cmdT w d) ∧ opcOf w = 7#8 ∧ idxOf w = 0x14#8 ∧
          t.irqEnable = (arg32Of w).extractLsb' 0 5)
      h hr (.inl rfl) (fun _ => .inl rfl) fun rest e u he hh => ?_
    obtain ⟨-, hclosing⟩ := irqKept_closing (s := u) ⟨fun _ h => h, rfl⟩
    rcases hh.irq with hk | ⟨w, d, rfl, hw, ⟨-, -, hu⟩ | ⟨hidx, -, hu⟩⟩
    · exact .inl (hclosing.trans hk.2)
    · exact .inl (hclosing.trans hu)
    · exact .inr ⟨w, d, he, hw, hidx, hclosing.trans (hu.trans (by simp [BitVec.setWidth_eq_extractLsb']))⟩
  · have h : irq s = true ↔ s.irqStatus &&& s.irqEnable ≠ 0 := by simp [irq]
    rw [h, bitVec_ne_zero_iff]
    simp

/-! ### The application buffer is a strict FIFO (R48, R63) -/

/-- The bytes that a step's port R response carries. -/
def respBytes (s : State) : List Byte := (s.out.respR.map RespR.bytes).getD []

/-- Since `s`, bytes were delivered to the tail of `APP`, in phase OPEN only, and its oldest bytes returned. -/
def Fifo (s u : State) : Prop :=
  ∃ delivered, s.app ++ delivered = respBytes u ++ u.app ∧ (delivered ≠ [] → u.phase = .opened)

theorem fifo_deliver {s u : State} (hr : headReady u = true) (h : Fifo s u) : Fifo s (deliver u) := by
  obtain ⟨d, hd, -⟩ := h
  obtain ⟨hp, -⟩ := (headReady_iff u).mp hr
  refine ⟨d ++ rbPayload u (slotIndex u u.rcvExp), ?_, fun _ => by rw [deliver_frame]; exact hp⟩
  rw [deliver_frame, ← List.append_assoc, hd, List.append_assoc]
  rfl

theorem fifo_drain {s u : State} (h : Fifo s u) : Fifo s (drain u) :=
  drain_keeps (P := Fifo s) (fun _ => fifo_deliver) (fun _ h => h) h

theorem fifo_answerPull {s u : State} (h : Fifo s u) (hq : respBytes u = []) (st : Status) (k : Nat) :
    Fifo s (answerPull u st k) := by
  obtain ⟨d, hd, hp⟩ := h
  refine ⟨d, ?_, hp⟩
  rw [hd, hq]
  exact (List.take_append_drop k u.app).symm

theorem fifo_pullCheck {s u : State} (h : Fifo s u) (hq : respBytes u = []) : Fifo s (pullCheck u) := by
  rcases pullCheck_cases u with hc | ⟨-, -, hc⟩ | ⟨-, -, ⟨-, hc⟩ | ⟨-, hc⟩ | ⟨-, -, -, hc⟩⟩ <;> rw [hc]
  · exact h
  all_goals exact fifo_answerPull h hq _ _

theorem fifo_closing {s u : State} (h : Fifo s u) (hq : respBytes u = []) : Fifo s (closing u) := by
  have hq' : respBytes (drain u) = [] := by rw [drain_frame]; exact hq
  have hd := fifo_drain (fifo_pullCheck (fifo_drain h) hq')
  rw [closing, txKick_frame]
  generalize drain (pullCheck (drain u)) = v at hd ⊢
  exact hd

/-- Before the closing procedures no byte is returned yet. -/
abbrev FifoQuiet (s u : State) : Prop := Fifo s u ∧ respBytes u = []

theorem fifoQuiet_drain {s u : State} (h : FifoQuiet s u) : FifoQuiet s (drain u) :=
  ⟨fifo_drain h.1, by rw [drain_frame]; exact h.2⟩

theorem fifoQuiet_finishFlag {s u : State} (h : FifoQuiet s u) : FifoQuiet s (finishFlag u) := by
  rw [finishFlag_frame]
  exact h

theorem Handler.fifo {s u : State} {e : Event} (h : Handler s e u) (hq : respBytes s = []) : FifoQuiet s u := by
  have keep : ∀ v : State, v.app = s.app → respBytes v = [] → FifoQuiet s v :=
    fun v ha hq => ⟨⟨[], by simp [ha, hq], fun h => absurd rfl h⟩, hq⟩
  cases h with
  | answer | start | closeIdle | close | schedLctrl => exact keep _ rfl hq
  | badCmdR => exact keep _ rfl rfl
  | push _ _ buf =>
    rw [pushOpen, pushLoop_frame]
    exact keep _ rfl hq
  | wrcsr w =>
    refine csrWrite_keeps (P := FifoQuiet s) (keep _ rfl hq) (fun c v => ?_) _ _
    rw [csrStore_frame]
    exact keep _ rfl hq
  | pull _ n timeout =>
    rcases pullCommand_cases s n timeout with ⟨-, h⟩ | ⟨-, h⟩ <;> rw [h]
    · exact keep _ rfl rfl
    · exact keep _ rfl hq
  | rxByte b =>
    rw [endRxByte_rxDecodeByte_frame]
    exact keep _ rfl hq
  | rxFlag => exact fifoQuiet_finishFlag (keep _ rfl hq)
  | rxDrop b he c => exact fifoQuiet_finishFlag (keep _ (by simp) (by simpa [respBytes] using hq))
  | data b he q a p hp =>
    refine fifoQuiet_finishFlag (onFrame_keeps (P := FifoQuiet s) (fun _ => fifoQuiet_drain) (fun _ _ h => h)
      (fun _ h => h) ?_ fun _ => ?_)
    · rw [onAck_frame]
      exact keep _ rfl hq
    · rw [store_frame, onAck_frame]
      exact keep _ rfl hq
  | ack b he a =>
    refine fifoQuiet_finishFlag ?_
    rw [onAck_frame]
    exact keep _ rfl hq
  | nack b he a =>
    refine fifoQuiet_finishFlag ?_
    rw [onNack_frame]
    exact keep _ rfl hq
  | lctrl b he rsp pkt win =>
    refine fifoQuiet_finishFlag ?_
    rcases onLctrl_cases { s with rxEn := false } rsp pkt win with ⟨-, h⟩ | ⟨-, h⟩ <;> rw [h] <;>
      exact keep _ rfl hq
  | lctrlFin => exact fifoQuiet_finishFlag (keep _ rfl hq)
  | txByte b rest =>
    rw [onTxByte_frame]
    exact keep _ rfl hq
  | linkFault k =>
    rcases onLinkFault_cases s k with h | ⟨c, -, -, h⟩ | ⟨-, h⟩ <;> rw [h] <;> exact keep _ rfl hq
  | tick =>
    have h : (onTick s).app = s.app ∧ respBytes (onTick s) = [] := by
      refine onTick_keeps (P := fun u => u.app = s.app ∧ respBytes u = []) (fun _ _ => ⟨rfl, hq⟩) (fun u h => ?_)
        (fun _ _ h => h)
      rcases senderTick_cases u with ⟨sw, hu⟩ | ⟨-, sw, info, hu⟩ <;> rw [hu] <;> exact h
    exact keep _ h.1 h.2

/-- Settles O35: the handler delivers at most to the tail, `DRAIN` to the tail, and `PULL_CHECK` returns the head. -/
theorem bytesLeaveInTheOrderTheyCame : Obligations.BytesLeaveInTheOrderTheyCame := by
  intro s t hne hr h
  have ht : Fifo s t := by
    rcases step_inversion h with ⟨he, -⟩ | ⟨e, rest, he, rfl | ⟨rfl, -⟩ | ⟨u, hu, rfl⟩⟩
    · exact absurd he hne
    · exact ⟨[], by simp [respBytes], fun h => absurd rfl h⟩
    · exact absurd (by simp [ResetOffered, he]) hr
    · obtain ⟨hfifo, hq⟩ := hu.fifo rfl
      exact fifo_closing (s := s) hfifo hq
  obtain ⟨d, hd, hp⟩ := ht
  refine ⟨d, hd.trans ?_, hp⟩
  rw [respBytes]
  cases t.out.respR <;> rfl

/-! ### The application and decoder buffers (R53 (4) and (5), R157) -/

/-- `Buffers` before the closing procedures, when a pending `PULL` may still be one that can complete. -/
abbrev BuffersBounded (s : State) : Prop :=
  s.app.length ≤ s.build.appCap ∧ s.rxlen ≤ s.build.pMax + 7 ∧ (s.pullPend = true → s.pullMax ≠ 0)

theorem rbPayload_length (s : State) (j : Nat) : (rbPayload s j).length = (rbAt s j).len.toNat := by
  simp [rbPayload]

/-- `DRAIN` delivers only what fits (R153). -/
theorem buffersBounded_drain {s : State} (hs : BuffersBounded s) : BuffersBounded (drain s) := by
  refine drain_keeps (P := BuffersBounded) (fun u hr hu => ?_) (fun _ h => h) hs
  obtain ⟨-, -, -, hfit⟩ := (headReady_iff u).mp hr
  rw [deliver_frame]
  refine ⟨?_, hu.2⟩
  have happ := hu.1
  simp only [List.length_append, rbPayload_length]
  omega

theorem buffersBounded_rxDecodeByte {s : State} (hs : BuffersBounded s) (b : Byte) :
    BuffersBounded (rxDecodeByte s b) := by
  obtain ⟨happ, hrx, hpull⟩ := hs
  unfold rxDecodeByte
  dsimp only
  split
  · exact ⟨happ, hrx, hpull⟩
  · split
    · exact ⟨happ, hrx, hpull⟩
    · split
      · exact ⟨happ, Nat.zero_le _, hpull⟩
      · next h =>
        refine ⟨happ, ?_, hpull⟩
        simp only [Build.rxCap] at h ⊢
        omega

/-- Re-opening the decoder empties its buffer (R115). -/
theorem buffersBounded_finishFlag {s : State} (happ : s.app.length ≤ s.build.appCap)
    (hpull : s.pullPend = true → s.pullMax ≠ 0) : BuffersBounded (finishFlag s) := by
  rw [finishFlag_frame]
  exact ⟨happ, Nat.zero_le _, hpull⟩

theorem Handler.buffers {s u : State} {e : Event} (h : Handler s e u) (hs : BuffersBounded s) : BuffersBounded u := by
  obtain ⟨happ, hrx, hpull⟩ := hs
  cases h with
  | answer | start | closeIdle | close | schedLctrl | badCmdR => exact ⟨happ, hrx, hpull⟩
  | push _ _ buf =>
    rw [pushOpen, pushLoop_frame]
    exact ⟨happ, hrx, hpull⟩
  | wrcsr w =>
    refine csrWrite_keeps (P := BuffersBounded) ⟨happ, hrx, hpull⟩ (fun c v => ?_) _ _
    rw [csrStore_frame]
    exact ⟨happ, hrx, hpull⟩
  | pull _ n timeout =>
    rcases pullCommand_cases s n timeout with ⟨-, h⟩ | ⟨hn, h⟩ <;> rw [h]
    · exact ⟨happ, hrx, hpull⟩
    · exact ⟨happ, hrx, fun _ => hn⟩
  | rxByte b =>
    rw [endRxByte, rxReenable_frame]
    exact buffersBounded_rxDecodeByte (s := { s with rxEn := false }) ⟨happ, hrx, hpull⟩ b
  | rxFlag => exact buffersBounded_finishFlag happ hpull
  | rxDrop b he c => exact buffersBounded_finishFlag (by simpa using happ) (by simpa using hpull)
  | data b he q a p =>
    have h : BuffersBounded (onFrame (onAck { s with rxEn := false } a) q p) := by
      refine onFrame_keeps (P := BuffersBounded) (fun _ => buffersBounded_drain) (fun _ _ h => h) (fun _ h => h) ?_
        fun _ => ?_
      · rw [onAck_frame]
        exact ⟨happ, hrx, hpull⟩
      · rw [store_frame, onAck_frame]
        exact ⟨happ, hrx, hpull⟩
    exact buffersBounded_finishFlag h.1 h.2.2
  | ack b he a => exact buffersBounded_finishFlag (by rw [onAck_frame]; exact happ) (by rw [onAck_frame]; exact hpull)
  | nack b he a =>
    exact buffersBounded_finishFlag (by rw [onNack_frame]; exact happ) (by rw [onNack_frame]; exact hpull)
  | lctrl b he rsp pkt win =>
    rcases onLctrl_cases { s with rxEn := false } rsp pkt win with ⟨-, h⟩ | ⟨-, h⟩ <;> rw [h] <;>
      exact buffersBounded_finishFlag happ hpull
  | lctrlFin => exact buffersBounded_finishFlag happ hpull
  | txByte b rest =>
    rw [onTxByte_frame]
    exact ⟨happ, hrx, hpull⟩
  | linkFault k =>
    rcases onLinkFault_cases s k with h | ⟨c, -, -, h⟩ | ⟨-, h⟩ <;> rw [h] <;> exact ⟨happ, hrx, hpull⟩
  | tick =>
    refine onTick_keeps (P := BuffersBounded) (fun _ _ => ⟨happ, hrx, hpull⟩) (fun u h => ?_) (fun _ _ h => h)
    rcases senderTick_cases u with ⟨sw, hu⟩ | ⟨-, sw, info, hu⟩ <;> rw [hu] <;> exact h

/-- A `PULL` that is pending behind `PULL_CHECK` cannot complete yet (R157). -/
theorem pullCheck_pending {s : State} (h : (pullCheck s).pullPend = true) :
    pullCheck s = s ∧ s.app = [] ∧ s.phase ≠ .closed ∧ s.phase ≠ .dead ∧ s.pullNowait = false := by
  unfold pullCheck at h ⊢
  split at h
  · next h0 => simp [h0] at h
  split at h
  · simp [answerPull] at h
  next happ =>
  split at h
  · simp [answerPull] at h
  next hclosed =>
  split at h
  · simp [answerPull] at h
  next hdead =>
  split at h
  · simp [answerPull] at h
  next hwait => simp_all

theorem buffersBounded_pullCheck {s : State} (hs : BuffersBounded s) : BuffersBounded (pullCheck s) := by
  obtain ⟨happ, hrx, hpull⟩ := hs
  have hle : ∀ k, (s.app.drop k).length ≤ s.build.appCap := fun k => by rw [List.length_drop]; omega
  rcases pullCheck_cases s with h | ⟨-, -, h⟩ | ⟨-, -, ⟨-, h⟩ | ⟨-, h⟩ | ⟨-, -, -, h⟩⟩ <;> rw [h]
  · exact ⟨happ, hrx, hpull⟩
  all_goals exact ⟨hle _, hrx, nofun⟩

/-- Where a `PULL` stays pending the second `DRAIN` has nothing left to deliver, so `APP` is still empty. -/
theorem buffers_closing {s : State} (hs : BuffersBounded s) : Buffers (closing s) := by
  have h1 := buffersBounded_drain hs
  have hstuck := headReady_drain s
  rw [closing, txKick_frame]
  generalize drain s = s1 at h1 hstuck ⊢
  obtain ⟨happ, hrx, hmax⟩ := buffersBounded_drain (buffersBounded_pullCheck h1)
  refine ⟨happ, hrx, fun hp => ?_⟩
  have hpend : (pullCheck s1).pullPend = true := by
    rw [drain_frame] at hp
    exact hp
  obtain ⟨heq, hempty, hclosed, hdead, hwait⟩ := pullCheck_pending hpend
  have hdrain : drain (pullCheck s1) = s1 := by rw [heq, drain_eq_self hstuck]
  rw [hdrain] at hmax hp ⊢
  exact ⟨hempty, hclosed, hdead, hwait, hmax hp⟩

/-- Settles O58: the bounds hold behind every handler, and the closing procedures complete each `PULL` that can be. -/
theorem stepKeepsBuffers : Obligations.StepKeepsBuffers := by
  intro s t hs h
  have hbounded : BuffersBounded s := ⟨hs.1, hs.2.1, fun hp => (hs.2.2 hp).2.2.2.2⟩
  exact step_keeps h hs (fun _ => hs) (fun _ => buffers_resetOf s.build)
    (fun _ _ _ hh => buffers_closing (hh.buffers hbounded))

/-! ### The outstanding frames (R22, R45, R130) -/

/-- `EFF_WIN` never exceeds the size of the slot files. -/
theorem effWin_le_wMax {s : State} (hs : Parameters s) : s.effWin.toNat ≤ s.build.wMax := by
  obtain ⟨-, -, -, -, -, -, hfrozen, hfree⟩ := hs
  cases h : s.frozen with
  | true => exact (hfrozen h).2.2
  | false => simp [(hfree h).2]

/-- `EFF_PKT` never exceeds the size of a slot. -/
theorem effPkt_le_pMax {s : State} (hs : Parameters s) : s.effPkt.toNat ≤ s.build.pMax := by
  obtain ⟨-, -, -, -, -, -, hfrozen, hfree⟩ := hs
  cases h : s.frozen with
  | true => exact (hfrozen h).1.2
  | false => simp [(hfree h).1]

theorem outIndex_inj {s : State} (hb : s.build.ok = true) {k m : Nat} (hk : k < s.build.wMax) (hm : m < s.build.wMax)
    (h : outIndex s k = outIndex s m) : k = m := slotIndex_add_inj hb hk hm h

/-- The frame behind the last outstanding one is that of `SND_NEXT` (R130). -/
theorem sndUna_add_nOut (s : State) : s.sndUna + BitVec.ofNat 8 (nOut s) = s.sndNext := by
  simp only [nOut, BitVec.ofNat_toNat, BitVec.setWidth_eq]
  bv_omega

theorem outIndex_nOut (s : State) : outIndex s (nOut s) = slotIndex s s.sndNext := by
  rw [outIndex, sndUna_add_nOut]

/-! ### `ONACK` (R133) -/

theorem acksSomething_iff (s : State) (a : Seq) : acksSomething s a = true ↔ 1 ≤ nAcked s a ∧ nAcked s a ≤ nOut s := by
  simp [acksSomething]

theorem sndUna_add_nAcked (s : State) (a : Seq) : s.sndUna + BitVec.ofNat 8 (nAcked s a) = a + 1 := by
  simp only [nAcked, BitVec.ofNat_toNat, BitVec.setWidth_eq]
  bv_omega

theorem nOut_retire {s : State} {n : Nat} (h : n ≤ nOut s) : nOut (retire s n) = nOut s - n := by
  simp only [nOut, retire, modifyOutstanding] at h ⊢
  bv_omega

theorem outIndex_retire (s : State) (n k : Nat) : outIndex (retire s n) k = outIndex s (n + k) := by
  simp [outIndex, retire, modifyOutstanding, slotIndex, BitVec.ofNat_add, BitVec.add_assoc]

section
variable {s : State} {a : Seq} (hb : s.build.ok = true) (hlen : s.sw.length = s.build.wMax)
  (hn : nOut s ≤ s.build.wMax) (ha : acksSomething s a = true)
include hb hlen hn ha

/-- The slots behind `ONACK`, by the slots that `retire` leaves. -/
theorem swAt_onAck (j : Nat) :
    swAt (onAck s a) j = if ∃ k < nOut s - nAcked s a, outIndex s (nAcked s a + k) = j then
      { swAt (retire s (nAcked s a)) j with retry := 0 } else swAt (retire s (nAcked s a)) j := by
  obtain ⟨-, hle⟩ := (acksSomething_iff s a).mp ha
  have hnOut := nOut_retire hle
  have hsw : swAt (onAck s a) j = swAt (clearRetries (retire s (nAcked s a))) j := by rw [onAck, if_pos ha]; rfl
  have hclear := swAt_modifyOutstanding (s := retire s (nAcked s a)) hb
    ((modifyOutstanding_sw_length s _ _).trans hlen) (n := nOut (retire s (nAcked s a)))
    (by rw [hnOut]; exact (Nat.sub_le _ _).trans hn) (fun slot => { slot with retry := 0 }) j
  simp only [outIndex_retire, hnOut] at hclear
  rw [hsw, clearRetries, hnOut]
  exact hclear

theorem swAt_retire (j : Nat) :
    swAt (retire s (nAcked s a)) j = if ∃ k < nAcked s a, outIndex s k = j then
      { swAt s j with st := .free, txreq := false } else swAt s j := by
  obtain ⟨-, hle⟩ := (acksSomething_iff s a).mp ha
  exact swAt_modifyOutstanding hb hlen (hle.trans hn) (fun slot => { slot with st := .free, txreq := false }) j

theorem swAt_onAck_retired {k : Nat} (hk : k < nAcked s a) :
    swAt (onAck s a) (outIndex s k) = { swAt s (outIndex s k) with st := .free, txreq := false } := by
  obtain ⟨-, hle⟩ := (acksSomething_iff s a).mp ha
  rw [swAt_onAck hb hlen hn ha, if_neg, swAt_retire hb hlen hn ha, if_pos ⟨k, hk, rfl⟩]
  rintro ⟨m, hm, h⟩
  have := outIndex_inj hb (by omega) (by omega) h
  omega

theorem swAt_onAck_kept {k : Nat} (hk : nAcked s a ≤ k) (hk' : k < nOut s) :
    swAt (onAck s a) (outIndex s k) = { swAt s (outIndex s k) with retry := 0 } := by
  rw [swAt_onAck hb hlen hn ha, if_pos ⟨k - nAcked s a, by omega, by rw [Nat.add_sub_cancel' hk]⟩,
    swAt_retire hb hlen hn ha, if_neg]
  rintro ⟨m, hm, h⟩
  have := outIndex_inj hb (by omega) (by omega) h
  omega

theorem swAt_onAck_other {j : Nat} (hj : ∀ k < nOut s, outIndex s k ≠ j) : swAt (onAck s a) j = swAt s j := by
  obtain ⟨-, hle⟩ := (acksSomething_iff s a).mp ha
  rw [swAt_onAck hb hlen hn ha, if_neg, swAt_retire hb hlen hn ha, if_neg]
  · rintro ⟨m, hm, h⟩
    exact hj m (by omega) h
  · rintro ⟨m, hm, h⟩
    exact hj _ (by omega) h

end

theorem sndUna_onAck {s : State} {a : Seq} (ha : acksSomething s a = true) : (onAck s a).sndUna = a + 1 := by
  rw [onAck, if_pos ha, ← sndUna_add_nAcked]
  rfl

theorem nOut_onAck {s : State} {a : Seq} (ha : acksSomething s a = true) :
    nOut (onAck s a) = nOut s - nAcked s a := by
  rw [onAck, if_pos ha, ← nOut_retire ((acksSomething_iff s a).mp ha).2]
  rfl

theorem outIndex_onAck {s : State} {a : Seq} (ha : acksSomething s a = true) (k : Nat) :
    outIndex (onAck s a) k = outIndex s (nAcked s a + k) := by
  rw [← outIndex_retire, onAck, if_pos ha]
  rfl

/-- Settles O25: what `ONACK` leaves in the retired slots, the kept ones, and the others. -/
theorem ackRetiresCumulatively : Obligations.AckRetiresCumulatively := by
  refine ⟨fun _ _ => rfl, fun s a hp => by simp [exec, execAck, hp], ?_⟩
  intro s a hp hpar _ hw n
  refine ⟨fun hno => ?_, fun hn => ?_⟩
  · have ha : acksSomething s a = false := by
      rw [← Bool.not_eq_true, acksSomething_iff]
      exact hno
    simp [exec, execAck, hp, onAck_ignored ha]
  · obtain ⟨hlen, hout, -⟩ := hw
    have ha : acksSomething s a = true := (acksSomething_iff s a).mpr hn
    have hout' : nOut s ≤ s.build.wMax := hout.trans (effWin_le_wMax hpar)
    refine ⟨(onAck s a).sw, ?_, fun k hk => swAt_onAck_retired hpar.1 hlen hout' ha hk,
      fun k hk hk' => swAt_onAck_kept hpar.1 hlen hout' ha hk hk', fun j hj => swAt_onAck_other hpar.1 hlen hout' ha hj⟩
    have hirq : (onAck s a).irqStatus = s.irqStatus ||| 0b00010#5 := by rw [onAck, if_pos ha]; rfl
    rw [← sndUna_onAck ha, ← hirq, ← onAck_frame]
    simp [exec, execAck, hp]

/-! ### The window bound and the sender file (R45, R53 (1) and (2), R138) -/

/-- A slot still holds the same frame, and is free exactly if it was. -/
abbrev SameFrame (w w' : SwSlot) : Prop :=
  w'.seq = w.seq ∧ w'.len = w.len ∧ w'.data = w.data ∧ (w'.st = .free ↔ w.st = .free)

theorem senderWindow_sw {s : State} {sw : List SwSlot} (hs : SenderWindow s) (hl : sw.length = s.sw.length)
    (hf : ∀ i, SameFrame (swAt s i) (sw.getD i {})) : SenderWindow { s with sw := sw } := by
  obtain ⟨hlen, hout, hslots, hfree⟩ := hs
  refine ⟨hl.trans hlen, hout, fun k hk => ?_, fun i hi hno => ?_⟩
  · obtain ⟨hst, hseq, hmin, hmax, hwritten⟩ := hslots k hk
    obtain ⟨eseq, elen, edata, est⟩ := hf (outIndex s k)
    refine ⟨fun h => hst (est.mp h), eseq.trans hseq, ?_, ?_, ?_⟩
    · exact elen.symm ▸ hmin
    · exact elen.symm ▸ hmax
    · exact edata.symm ▸ elen.symm ▸ hwritten
  · exact (hf i).2.2.2.mpr (hfree i (hl ▸ hi) hno)

theorem senderWindow_modifySw {s : State} (hs : SenderWindow s) {i : Nat} {f : SwSlot → SwSlot}
    (hf : SameFrame (swAt s i) (f (swAt s i))) : SenderWindow (modifySw s i f) := by
  refine senderWindow_sw hs (modifySw_sw_length s i f) fun j => ?_
  change SameFrame (swAt s j) (swAt (modifySw s i f) j)
  rcases swAt_modifySw_cases s i j f with h | ⟨rfl, -, h⟩ <;> rw [h]
  · exact ⟨rfl, rfl, rfl, Iff.rfl⟩
  · exact hf

theorem senderWindow_onAck {s : State} (hp : Parameters s) (hs : SenderWindow s) (a : Seq) :
    SenderWindow (onAck s a) := by
  by_cases ha : acksSomething s a = true
  swap
  · rw [onAck_ignored (by simpa using ha)]
    exact hs
  obtain ⟨hlen, hout, hslots, hfree⟩ := hs
  obtain ⟨-, hle⟩ := (acksSomething_iff s a).mp ha
  have hout' : nOut s ≤ s.build.wMax := hout.trans (effWin_le_wMax hp)
  have hbuild : (onAck s a).build = s.build := by rw [onAck_frame]
  have hpkt : (onAck s a).effPkt = s.effPkt := by rw [onAck_frame]
  have hwin : (onAck s a).effWin = s.effWin := by rw [onAck_frame]
  have hlen' : (onAck s a).sw.length = s.sw.length := by
    rw [onAck, if_pos ha]
    exact (modifyOutstanding_sw_length _ _ _).trans (modifyOutstanding_sw_length _ _ _)
  refine ⟨by rw [hlen', hbuild, hlen], by rw [nOut_onAck ha, hwin]; omega, fun k hk => ?_, fun i hi hno => ?_⟩
  · rw [nOut_onAck ha] at hk
    have hk' : nAcked s a + k < nOut s := by omega
    obtain ⟨hst, hseq, hmin, hmax, hwritten⟩ := hslots _ hk'
    have hnum : (onAck s a).sndUna + BitVec.ofNat 8 k = s.sndUna + BitVec.ofNat 8 (nAcked s a + k) := by
      rw [sndUna_onAck ha, ← sndUna_add_nAcked, BitVec.ofNat_add, BitVec.add_assoc]
    rw [outIndex_onAck ha, swAt_onAck_kept hp.1 hlen hout' ha (Nat.le_add_right _ _) hk', hnum, hpkt]
    exact ⟨hst, hseq, hmin, hmax, hwritten⟩
  · by_cases hi' : ∃ k < nAcked s a, outIndex s k = i
    · obtain ⟨k, hk, rfl⟩ := hi'
      rw [swAt_onAck_retired hp.1 hlen hout' ha hk]
    · have hno' : ∀ k < nOut s, outIndex s k ≠ i := by
        rintro k hk rfl
        by_cases hk' : k < nAcked s a
        · exact hi' ⟨k, hk', rfl⟩
        · exact hno (k - nAcked s a) (by rw [nOut_onAck ha]; omega)
            (by rw [outIndex_onAck ha, Nat.add_sub_cancel' (by omega)])
      rw [swAt_onAck_other hp.1 hlen hout' ha hno']
      exact hfree i (hlen' ▸ hi) hno'

/-- The frame of a fast retransmission was ACKPENDING (R134). -/
theorem senderWindow_fastRetransmit {s : State} (hs : SenderWindow s) : SenderWindow (fastRetransmit s) := by
  unfold fastRetransmit
  dsimp only
  split
  · next h => exact senderWindow_modifySw hs ⟨rfl, rfl, rfl, by simp [h.1]⟩
  · exact hs

theorem senderWindow_onNack {s : State} (hp : Parameters s) (hs : SenderWindow s) (a : Seq) :
    SenderWindow (onNack s a) := by
  unfold onNack
  dsimp only
  split
  · exact senderWindow_fastRetransmit (senderWindow_onAck hp hs a)
  · exact senderWindow_onAck hp hs a

/-- `SEND` while the window is open makes one more frame outstanding, in the slot behind the others (R132). -/
theorem nOut_send {s : State} (h : nOut s < 255) (c : List Byte) : nOut (send s c) = nOut s + 1 := by
  simp only [nOut, send, modifySw] at h ⊢
  bv_omega

/-- The slot that `SEND(chunk)` leaves where the slot was `old` (R132). -/
def sentSlot (s : State) (c : List Byte) (old : SwSlot) : SwSlot :=
  { st := .sent, seq := s.sndNext, len := BitVec.ofNat 16 c.length, data := old.data.writeRun 0 c, ts := s.now,
    deadline := rtoDeadline s 0, retry := 0, txreq := true, fastrx := false }

theorem sentSlot_len {c : List Byte} (hc : c.length < 65536) (s : State) (old : SwSlot) :
    (sentSlot s c old).len.toNat = c.length := by
  rw [sentSlot, BitVec.toNat_ofNat]
  omega

theorem sentSlot_read (s : State) (c : List Byte) (old : SwSlot) (o : Nat) :
    (sentSlot s c old).data.read o = if o < c.length then some (byteAt c o) else old.data.read o := by
  split
  · next h => simp [sentSlot, Memory.read_writeRun_zero _ _ h, byteAt, h]
  · next h => exact Memory.read_writeRun_above _ _ (Nat.le_of_not_lt h)

theorem swAt_send {s : State} (hi : slotIndex s s.sndNext < s.sw.length) (c : List Byte) (j : Nat) :
    swAt (send s c) j = if j = slotIndex s s.sndNext then sentSlot s c (swAt s (slotIndex s s.sndNext))
      else swAt s j :=
  swAt_modifySw s (slotIndex s s.sndNext) j (sentSlot s c) hi

theorem senderWindow_send {s : State} (hp : Parameters s) (hs : SenderWindow s) {c : List Byte}
    (hopen : nOut s < s.effWin.toNat) (hmin : 1 ≤ c.length) (hmax : c.length ≤ s.effPkt.toNat) :
    SenderWindow (send s c) := by
  obtain ⟨hlen, hout, hslots, hfree⟩ := hs
  have hwin := effWin_le_wMax hp
  have hw128 := Build.ok_wMax_le hp.1
  have hlen16 := sentSlot_len (c := c) (by have := s.effPkt.isLt; omega) s
  have hn := nOut_send (s := s) (by omega) c
  have hidx : ∀ k, outIndex (send s c) k = outIndex s k := fun k => outIndex_congr rfl rfl k
  have hslot := swAt_send (s := s) (by rw [hlen]; exact slotIndex_lt hp.1 _) c
  refine ⟨(modifySw_sw_length _ _ _).trans hlen, by rw [hn]; exact hopen, fun k hk => ?_, fun i hi hno => ?_⟩
  · rw [hidx, hslot]
    by_cases hk' : k = nOut s
    · subst hk'
      rw [if_pos (outIndex_nOut s)]
      refine ⟨nofun, (sndUna_add_nOut s).symm, (hlen16 _).symm ▸ hmin, (hlen16 _).symm ▸ hmax, fun o ho => ?_⟩
      rw [hlen16] at ho
      rw [sentSlot_read, if_pos ho]
      rfl
    · have hk'' : k < nOut s := by omega
      rw [if_neg fun h => hk' (outIndex_inj hp.1 (by omega) (by omega) (h.trans (outIndex_nOut s).symm))]
      exact hslots k hk''
  · rw [hslot, if_neg fun h => hno (nOut s) (by omega) (by rw [hidx, outIndex_nOut, h])]
    exact hfree i ((modifySw_sw_length _ _ _).symm ▸ hi) fun k hk h => hno k (by omega) (by rw [hidx, h])

/-- The cutting rule of `PUSH` gives each frame 1 to `EFF_PKT` bytes (R138, R191). -/
theorem senderWindow_pushOpen {s : State} (hp : Parameters s) (hf : s.frozen = true) (hs : SenderWindow s)
    (buf : List Byte) : SenderWindow (pushOpen s buf).1 := by
  refine (pushLoop_keeps (P := fun u => SenderWindow u ∧ Parameters u ∧ u.frozen = true)
    (fun u c ⟨hw, hpu, hfu⟩ hopen hmax hmin => ?_) _ buf ⟨hs, hp, hf⟩).1
  obtain ⟨-, -, -, -, -, -, hfrozen, -⟩ := id hpu
  exact ⟨senderWindow_send hpu hw hopen (hmin (hfrozen hfu).1.1) hmax, hpu, hfu⟩

/-- A retransmission keeps the frame (R135). -/
theorem senderWindow_onTimeout {s : State} (hs : SenderWindow s) {k : Nat} (hk : k < nOut s) :
    SenderWindow (onTimeout s (outIndex s k)) ∧ nOut (onTimeout s (outIndex s k)) = nOut s := by
  rcases onTimeout_cases s (outIndex s k) with ⟨-, h⟩ | ⟨-, h⟩ <;> rw [h]
  · exact ⟨hs, rfl⟩
  · obtain ⟨-, -, hslots, -⟩ := id hs
    exact ⟨senderWindow_modifySw hs ⟨rfl, rfl, rfl, by simp [(hslots k hk).1]⟩, rfl⟩

theorem senderWindow_senderTick {s : State} (hs : SenderWindow s) : SenderWindow (senderTick s) := by
  refine (senderTick_keeps (P := fun u => SenderWindow u ∧ nOut u = nOut s) (fun u k hk ⟨hu, hn⟩ => ?_) ⟨hs, rfl⟩).1
  obtain ⟨hw, hn'⟩ := senderWindow_onTimeout hu (hn.symm ▸ hk)
  exact ⟨hw, hn'.trans hn⟩

/-- `TX_DONE` (R215): the transmitter is free; a DATA frame's slot becomes ACKPENDING if it still holds that frame,
SENT, with no new request. -/
theorem txDone_cases (s : State) :
    ((∀ i q, s.txCur = .data i q → ¬ ((swAt s i).st = .sent ∧ (swAt s i).seq = q ∧ (swAt s i).txreq = false)) ∧
      txDone s = { s with txCur := .none }) ∨
    ∃ i q, s.txCur = .data i q ∧ (swAt s i).st = .sent ∧ (swAt s i).seq = q ∧ (swAt s i).txreq = false ∧
      txDone s = { modifySw s i (fun slot => { slot with st := .ackPending }) with txCur := .none } := by
  unfold txDone
  split
  case h_1 i q hcur =>
    dsimp only
    split
    · next h => exact .inr ⟨i, q, hcur, h.1, h.2.1, h.2.2, rfl⟩
    · next h => exact .inl ⟨fun i' q' h' => by rw [hcur] at h'; cases h'; exact h, rfl⟩
  all_goals next hcur => exact .inl ⟨fun i q h => by simp [hcur] at h, rfl⟩

theorem senderWindow_txDone {s : State} (hs : SenderWindow s) : SenderWindow (txDone s) := by
  rcases txDone_cases s with ⟨-, h⟩ | ⟨i, q, -, hst, -, -, h⟩ <;> rw [h]
  · exact hs
  · exact senderWindow_modifySw hs ⟨rfl, rfl, rfl, by simp [hst]⟩

theorem senderWindow_onTxByte {s : State} (hs : SenderWindow s) (b : Byte) (rest : List Byte) :
    SenderWindow (onTxByte s b rest) := by
  unfold onTxByte
  dsimp only
  split
  · exact senderWindow_txDone (s := emitWire { s with txbuf := rest } b) hs
  · exact hs

/-- At the freeze no frame is outstanding yet, and every slot is free (R40, R174). -/
theorem nOut_of_not_frozen {s : State} (hp : Parameters s) (hs : SenderWindow s) (hf : s.frozen = false) :
    nOut s = 0 := by
  obtain ⟨-, -, -, -, -, -, -, hfree⟩ := hp
  have hout := hs.2.1
  rw [(hfree hf).2] at hout
  exact Nat.le_zero.mp hout

theorem not_frozen_of_negotiating {s : State} (hl : Lifecycle s) (hp : s.phase = .negotiating) :
    s.frozen = false := by
  obtain ⟨-, -, hfr, -⟩ := hl
  rw [hp] at hfr
  simpa using hfr

theorem senderWindow_onLctrl {s : State} (hp : Parameters s) (hs : SenderWindow s)
    (hf : s.phase = .negotiating → s.frozen = false) (rsp : Bool) (pkt : BitVec 16) (win : Byte) :
    SenderWindow (onLctrl s rsp pkt win) := by
  rcases onLctrl_cases s rsp pkt win with ⟨hn, h⟩ | ⟨-, h⟩ <;> rw [h]
  · have h0 : nOut s = 0 := nOut_of_not_frozen hp hs (hf hn)
    obtain ⟨hlen, -, -, hfree⟩ := hs
    have hno : ∀ k, ¬ k < nOut s := fun k hk => Nat.not_lt_zero k (h0 ▸ hk)
    exact ⟨hlen, (Nat.le_of_eq h0).trans (Nat.zero_le _), fun k hk => absurd hk (hno k), hfree⟩
  · exact hs

theorem senderWindow_finishFlag {s : State} (hs : SenderWindow s) : SenderWindow (finishFlag s) := by
  rw [finishFlag_frame]
  exact hs

theorem Handler.senderWindow {s u : State} {e : Event} (h : Handler s e u) (hl : Lifecycle s) (hp : Parameters s)
    (hs : SenderWindow s) : SenderWindow u := by
  have hrx : SenderWindow { s with rxEn := false } := hs
  have hprx : Parameters { s with rxEn := false } := hp
  have hfree : s.phase = .negotiating → s.frozen = false := not_frozen_of_negotiating hl
  cases h with
  | answer | start | closeIdle | close | schedLctrl | badCmdR => exact hs
  | push _ _ buf hopen => exact senderWindow_pushOpen hp (hl.2.1 hopen) hs buf
  | wrcsr w =>
    refine csrWrite_keeps (P := SenderWindow) hs (fun c v => ?_) _ _
    rw [csrStore_frame]
    exact hs
  | pull _ n timeout => rcases pullCommand_cases s n timeout with ⟨-, h⟩ | ⟨-, h⟩ <;> rw [h] <;> exact hs
  | rxByte b =>
    rw [endRxByte_rxDecodeByte_frame]
    exact hs
  | rxFlag | lctrlFin => exact senderWindow_finishFlag hs
  | rxDrop b he c => exact senderWindow_finishFlag (by cases c <;> exact hs)
  | data b he q a p =>
    have hack := senderWindow_onAck hprx hrx a
    refine senderWindow_finishFlag ?_
    generalize onAck { s with rxEn := false } a = v at hack ⊢
    rw [onFrame_frame]
    exact hack
  | ack b he a => exact senderWindow_finishFlag (senderWindow_onAck hprx hrx a)
  | nack b he a => exact senderWindow_finishFlag (senderWindow_onNack hprx hrx a)
  | lctrl b he rsp pkt win =>
    exact senderWindow_finishFlag (senderWindow_onLctrl hprx hrx hfree rsp pkt win)
  | txByte b rest => exact senderWindow_onTxByte hs b rest
  | linkFault k => rcases onLinkFault_cases s k with h | ⟨c, -, -, h⟩ | ⟨-, h⟩ <;> rw [h] <;> exact hs
  | tick =>
    exact onTick_keeps (P := SenderWindow) (fun _ _ => hs) (fun _ => senderWindow_senderTick) (fun _ _ h => h)

theorem senderWindow_txKick {s : State} (hs : SenderWindow s) : SenderWindow (txKick s) := by
  refine txKick_keeps (P := SenderWindow) fun t ht => ?_
  cases ht with
  | idle | fin | lctrl | ack => exact hs
  | data => exact senderWindow_modifySw (s := loadFrame s _ _ _ _ _) hs ⟨rfl, rfl, rfl, Iff.rfl⟩

theorem senderWindow_closing {s : State} (hs : SenderWindow s) : SenderWindow (closing s) := by
  refine closing_keeps (P := SenderWindow) (fun u hu => ?_) (fun u hu => ?_) (fun _ => senderWindow_txKick) hs
  · rw [drain_frame]
    exact hu
  · rw [pullCheck_frame]
    exact hu

/-- Settles O55: the handlers and `TX_KICK` keep the frame of every outstanding slot, but for `ONACK`, which retires the
oldest, and `SEND`, which adds one behind them. -/
theorem stepKeepsSenderWindow : Obligations.StepKeepsSenderWindow := by
  intro s t hl hp hs h
  exact step_keeps h hs (fun _ => hs) (fun _ => senderWindow_resetOf s.build)
    (fun _ _ _ hh => senderWindow_closing (hh.senderWindow hl hp hs))

/-! ### The length of a frame on the wire (R50, R82, R92) -/

theorem stuff_append (l m : List Byte) : stuff (l ++ m) = stuff l ++ stuff m := List.flatMap_append

theorem length_stuffByte_le (b : Byte) : (stuffByte b).length ≤ 2 := by
  unfold stuffByte
  split <;> simp

theorem length_stuff_le (l : List Byte) : (stuff l).length ≤ 2 * l.length := by
  induction l with
  | nil => simp [stuff]
  | cons b l ih =>
    have hb := length_stuffByte_le b
    simp only [stuff, List.flatMap_cons, List.length_append, List.length_cons] at ih ⊢
    omega

/-- Bytes that need no escape are their own stuffing (R92). -/
theorem stuff_eq_self {l : List Byte} (h : ∀ b ∈ l, b ≠ flagByte ∧ b ≠ escByte) : stuff l = l := by
  induction l with
  | nil => rfl
  | cons b l ih =>
    obtain ⟨hflag, hesc⟩ := h b List.mem_cons_self
    have hb : stuffByte b = [b] := by simp [stuffByte, hflag, hesc]
    have hl := ih fun b hb => h b (List.mem_cons_of_mem _ hb)
    simp only [stuff, List.flatMap_cons, hb] at hl ⊢
    rw [hl, List.singleton_append]

theorem length_encodeFrame (type seq ack : Byte) (p : List Byte) :
    (encodeFrame type seq ack p).length = (stuff (frameBody type seq ack p)).length + 2 := by
  simp [encodeFrame]

theorem length_encodeFrame_le (type seq ack : Byte) (p : List Byte) :
    (encodeFrame type seq ack p).length ≤ 2 * (p.length + 7) + 2 := by
  have h := length_stuff_le (frameBody type seq ack p)
  have hbody : (frameBody type seq ack p).length = p.length + 7 := by simp [frameBody, frameHead, be16, le16]
  rw [length_encodeFrame]
  omega

/-- The header and the packet size of an LCTRL frame with a small proposal need no escape. -/
theorem stuff_lctrlHead (fin rsp : Bool) {pkt : BitVec 16} (h : pkt = 1 ∨ pkt = 2) :
    stuff [0x04, lctrlFlags fin rsp, 0x00, 0x00, 0x03, pkt.extractLsb' 8 8, pkt.extractLsb' 0 8]
      = [0x04, lctrlFlags fin rsp, 0x00, 0x00, 0x03, pkt.extractLsb' 8 8, pkt.extractLsb' 0 8] := by
  apply stuff_eq_self
  rcases h with rfl | rfl <;> revert fin rsp <;> decide

/-- An LCTRL frame fits the transmitter of every build, also where its body exceeds `P_MAX + 7`: a proposal below 3 has
only three bytes, the window and the integrity check, that may need an escape. -/
theorem length_encodeFrame_localProposal_le {s : State} (hs : Parameters s) (fin rsp : Bool) :
    (encodeFrame 0x04 (lctrlFlags fin rsp) 0x00 (localProposal s)).length ≤ 2 * (s.build.pMax + 7) + 2 := by
  obtain ⟨-, ⟨hmin, hmax⟩, -⟩ := hs
  by_cases hp : 3 ≤ s.build.pMax
  · have h := length_encodeFrame_le 0x04 (lctrlFlags fin rsp) 0x00 (localProposal s)
    have hlen : (localProposal s).length = 3 := rfl
    omega
  · have hsmall : s.localPkt = 1 ∨ s.localPkt = 2 := by bv_omega
    let plain : List Byte :=
      [0x04, lctrlFlags fin rsp, 0x00, 0x00, 0x03, s.localPkt.extractLsb' 8 8, s.localPkt.extractLsb' 0 8]
    let tail : List Byte := s.localWin :: le16 (crc16 (plain ++ [s.localWin]))
    have hhead : frameHead 0x04 (lctrlFlags fin rsp) 0x00 (localProposal s) = plain ++ [s.localWin] := by
      have hlen : be16 (BitVec.ofNat 16 (localProposal s).length) = [0x00, 0x03] := by
        change be16 (BitVec.ofNat 16 3) = _
        decide
      rw [frameHead, hlen]
      rfl
    have hbody : frameBody 0x04 (lctrlFlags fin rsp) 0x00 (localProposal s) = plain ++ tail := by
      rw [frameBody, hhead, List.append_assoc]
      rfl
    have hplain : stuff plain = plain := stuff_lctrlHead fin rsp hsmall
    have htail := length_stuff_le tail
    have hlen : plain.length = 7 ∧ tail.length = 3 := ⟨rfl, rfl⟩
    rw [length_encodeFrame, hbody, stuff_append, hplain, List.length_append]
    omega

/-! ### The transmitter (R50, R53 (6), R131) -/

/-- The part of `Transmitter` about `TXBUF`. -/
abbrev TxBuffer (s : State) : Prop :=
  s.txbuf.length ≤ 2 * (s.build.pMax + 7) + 2 ∧ (s.txCur = .none ↔ s.txbuf = [])

/-- The part of `Transmitter` about slot `i`, in phase `p` with the frame `cur` in `TXBUF`. -/
abbrev TxSlot (p : Phase) (cur : TxCur) (i : Nat) (w : SwSlot) : Prop :=
  (w.txreq = true → w.st = .sent) ∧ (p = .opened → w.st = .sent → w.txreq = true ∨ cur = .data i w.seq)

abbrev TxSlots (s : State) : Prop := ∀ i, TxSlot s.phase s.txCur i (swAt s i)

theorem swAt_of_le {s : State} {i : Nat} (h : s.sw.length ≤ i) : swAt s i = {} := by
  simp [swAt, List.getElem?_eq_none h]

/-- Outside the file every slot reads as a free one, so the bound on the index is no restriction. -/
theorem transmitter_iff (s : State) : Transmitter s ↔ TxBuffer s ∧ TxSlots s := by
  constructor
  · rintro ⟨hlen, hcur, hreq, hsent⟩
    refine ⟨⟨hlen, hcur⟩, fun i => ?_⟩
    by_cases hi : i < s.sw.length
    · exact ⟨hreq i hi, fun hp => hsent hp i hi⟩
    · rw [swAt_of_le (Nat.le_of_not_lt hi)]
      exact ⟨nofun, nofun⟩
  · rintro ⟨⟨hlen, hcur⟩, hslots⟩
    exact ⟨hlen, hcur, fun i _ => (hslots i).1, fun hp i _ => (hslots i).2 hp⟩

theorem txSlots_modifySw {s : State} (hs : TxSlots s) {i : Nat} {f : SwSlot → SwSlot}
    (hf : TxSlot s.phase s.txCur i (f (swAt s i))) : TxSlots (modifySw s i f) := by
  intro j
  rcases swAt_modifySw_cases s i j f with h | ⟨rfl, -, h⟩ <;> rw [h]
  · exact hs j
  · exact hf

/-- Outside phase OPEN only the clause about requests is left. -/
theorem TxSlot.of_not_opened {p p' : Phase} {cur cur' : TxCur} {i : Nat} {w : SwSlot} (h : TxSlot p cur i w)
    (hp : p' ≠ .opened) : TxSlot p' cur' i w := ⟨h.1, fun h => absurd h hp⟩

/-- With a free transmitter every SENT slot asks, whatever is loaded next. -/
theorem TxSlot.load {p : Phase} {i : Nat} {w : SwSlot} (h : TxSlot p .none i w) (cur : TxCur) : TxSlot p cur i w :=
  ⟨h.1, fun hp hst => .inl ((h.2 hp hst).resolve_right nofun)⟩

/-- A predicate that every change of a slot keeps holds of all slots after a run of changes. -/
theorem getD_foldl_modify_keeps {α : Type} {Q : Nat → α → Prop} {f : α → α} (hf : ∀ i w, Q i w → Q i (f w))
    (g : Nat → Nat) (d : α) (ks : List Nat) {l : List α} (hl : ∀ i, Q i (l.getD i d)) (i : Nat) :
    Q i ((ks.foldl (fun l k => l.modify (g k) f) l).getD i d) := by
  induction ks generalizing l with
  | nil => exact hl i
  | cons k ks ih =>
    refine ih fun j => ?_
    rcases getD_modify_cases l (g k) j f d with h | ⟨-, -, h⟩ <;> rw [h]
    · exact hl j
    · exact hf j _ (hl j)

/-- `ONACK` frees slots and clears retry counters (R133). -/
theorem onAck_slots_keep {Q : Nat → SwSlot → Prop} (hfree : ∀ i w, Q i w → Q i { w with st := .free, txreq := false })
    (hretry : ∀ i w, Q i w → Q i { w with retry := 0 }) {s : State} (hs : ∀ i, Q i (swAt s i)) (a : Seq) (i : Nat) :
    Q i (swAt (onAck s a) i) := by
  unfold onAck
  split
  · exact getD_foldl_modify_keeps hretry _ _ _ (getD_foldl_modify_keeps hfree _ _ _ hs) i
  · exact hs i

theorem txSlots_onAck {s : State} (hs : TxSlots s) (a : Seq) : TxSlots (onAck s a) := by
  have hphase : (onAck s a).phase = s.phase := by rw [onAck_frame]
  have hcur : (onAck s a).txCur = s.txCur := by rw [onAck_frame]
  intro i
  rw [hphase, hcur]
  exact onAck_slots_keep (Q := TxSlot s.phase s.txCur) (fun _ _ _ => ⟨nofun, nofun⟩) (fun _ _ h => h) hs a i

theorem txSlots_fastRetransmit {s : State} (hs : TxSlots s) : TxSlots (fastRetransmit s) := by
  unfold fastRetransmit
  dsimp only
  split
  · exact txSlots_modifySw hs ⟨fun _ => rfl, fun _ _ => .inl rfl⟩
  · exact hs

theorem txSlots_onNack {s : State} (hs : TxSlots s) (a : Seq) : TxSlots (onNack s a) := by
  unfold onNack
  dsimp only
  split
  · exact txSlots_fastRetransmit (txSlots_onAck hs a)
  · exact txSlots_onAck hs a

theorem txSlots_pushOpen {s : State} (hs : TxSlots s) (buf : List Byte) : TxSlots (pushOpen s buf).1 :=
  pushLoop_keeps (P := TxSlots) (fun _ _ hu _ _ _ => txSlots_modifySw hu ⟨fun _ => rfl, fun _ _ => .inl rfl⟩) _ buf hs

theorem txSlots_fatal {s : State} (hs : TxSlots s) (c : DeadCause) (info : Byte) : TxSlots (fatal s c info) :=
  fun i => (hs i).of_not_opened (by simp)

theorem txSlots_senderTick {s : State} (hs : TxSlots s) : TxSlots (senderTick s) := by
  refine senderTick_keeps (P := TxSlots) (fun u k _ hu => ?_) hs
  rcases onTimeout_cases u (outIndex u k) with ⟨-, h⟩ | ⟨-, h⟩ <;> rw [h]
  · exact txSlots_fatal hu _ _
  · exact txSlots_modifySw hu ⟨fun _ => rfl, fun _ _ => .inl rfl⟩

/-- The slot whose frame has left is no longer SENT, or asks again (R215). -/
theorem txSlots_txDone {s : State} (hs : TxSlots s) : TxSlots (txDone s) := by
  intro j
  rcases txDone_cases s with ⟨hno, h⟩ | ⟨i, q, hcur, hst, hseq, hreq, h⟩ <;> rw [h]
  · refine ⟨(hs j).1, fun hp hst => .inl ?_⟩
    rcases (hs j).2 hp hst with h | h
    · exact h
    · by_contra hreq
      exact hno j _ h ⟨hst, rfl, Bool.eq_false_of_not_eq_true hreq⟩
  · have hi : i < s.sw.length := by
      by_contra hi
      rw [swAt_of_le (Nat.le_of_not_lt hi)] at hst
      cases hst
    have hj : swAt { modifySw s i (fun slot => { slot with st := .ackPending }) with txCur := .none } j
        = if j = i then { swAt s i with st := .ackPending } else swAt s j := swAt_modifySw s i j _ hi
    rw [hj]
    split
    · exact ⟨fun h => absurd (hreq.symm.trans h) (by simp), nofun⟩
    · next hne =>
      refine ⟨(hs j).1, fun hp hst => .inl (((hs j).2 hp hst).resolve_right fun h => hne ?_)⟩
      rw [hcur] at h
      injection h with h
      exact h.symm

theorem txSlots_txKick {s : State} (hb : TxBuffer s) (hs : TxSlots s) : TxSlots (txKick s) := by
  have hload : s.txbuf = [] → ∀ cur i, TxSlot s.phase cur i (swAt s i) := fun h cur i =>
    TxSlot.load (hb.2.mpr h ▸ hs i) cur
  refine txKick_keeps (P := TxSlots) fun t ht => ?_
  cases ht with
  | idle => exact hs
  | fin h | lctrl h | ack h => exact hload h _
  | data h hp k hk hr =>
    refine txSlots_modifySw (s := loadFrame s _ _ _ _ _) (hload h _) ⟨nofun, fun _ _ => .inr rfl⟩

theorem swPayload_length (s : State) (i : Nat) : (swPayload s i).length = (swAt s i).len.toNat := by
  simp [swPayload]

/-- Every frame that `TX_KICK` loads fits into `TXBUF` (R50, R213). -/
theorem txBuffer_txKick {s : State} (hp : Parameters s) (hw : SenderWindow s) (hs : TxBuffer s) :
    TxBuffer (txKick s) := by
  have hload : ∀ (type seq ack : Byte) (p : List Byte) (cur : TxCur), cur ≠ .none →
      (encodeFrame type seq ack p).length ≤ 2 * (s.build.pMax + 7) + 2 →
      TxBuffer (loadFrame s type seq ack p cur) := fun type seq ack p cur hcur hlen =>
    ⟨hlen, iff_of_false hcur (encodeFrame_ne_nil type seq ack p)⟩
  have hfit : ∀ (type seq ack : Byte) (p : List Byte), p.length ≤ s.build.pMax →
      (encodeFrame type seq ack p).length ≤ 2 * (s.build.pMax + 7) + 2 := fun type seq ack p h =>
    (length_encodeFrame_le type seq ack p).trans (by omega)
  refine txKick_keeps (P := TxBuffer) fun t ht => ?_
  cases ht with
  | idle => exact hs
  | fin => exact hload _ _ _ _ _ nofun (length_encodeFrame_localProposal_le hp true s.frozen)
  | lctrl => exact hload _ _ _ _ _ nofun (length_encodeFrame_localProposal_le hp false s.frozen)
  | ack => exact hload _ _ _ _ _ nofun (hfit _ _ _ _ (Nat.zero_le _))
  | data _ _ k hk =>
    obtain ⟨-, -, hslots, -⟩ := hw
    obtain ⟨-, -, -, hmax, -⟩ := hslots k hk
    exact hload _ _ _ _ _ nofun (hfit _ _ _ _ ((swPayload_length s _).le.trans (hmax.trans (effPkt_le_pMax hp))))

theorem transmitter_closing {s : State} (hp : Parameters s) (hw : SenderWindow s) (hb : TxBuffer s) (hs : TxSlots s) :
    TxBuffer (closing s) ∧ TxSlots (closing s) := by
  have keep : ∀ u, Parameters u ∧ SenderWindow u ∧ TxBuffer u ∧ TxSlots u →
      TxBuffer (txKick u) ∧ TxSlots (txKick u) :=
    fun u ⟨hpu, hwu, hbu, hsu⟩ => ⟨txBuffer_txKick hpu hwu hbu, txSlots_txKick hbu hsu⟩
  refine keep _ ?_
  rw [drain_frame, pullCheck_frame, drain_frame]
  exact ⟨hp, hw, hb, hs⟩

theorem txBuffer_onTxByte {s : State} (hs : TxBuffer s) {b : Byte} {rest : List Byte} (hb : s.txbuf = b :: rest) :
    TxBuffer (onTxByte s b rest) := by
  obtain ⟨hlen, hcur⟩ := hs
  have hlen' : rest.length ≤ 2 * (s.build.pMax + 7) + 2 := by
    rw [hb, List.length_cons] at hlen
    omega
  unfold onTxByte
  dsimp only
  split
  · next h =>
    rw [txDone_frame]
    exact ⟨hlen', iff_of_true rfl (List.isEmpty_iff.mp h)⟩
  · next h =>
    refine ⟨hlen', iff_of_false (fun h => ?_) (fun h' => h (List.isEmpty_iff.mpr h'))⟩
    rw [hcur.mp h] at hb
    cases hb

theorem txSlots_onTxByte {s : State} (hs : TxSlots s) (b : Byte) (rest : List Byte) :
    TxSlots (onTxByte s b rest) := by
  unfold onTxByte
  dsimp only
  split
  · exact txSlots_txDone (s := emitWire { s with txbuf := rest } b) hs
  · exact hs

/-- At the freeze every slot is free, so none is SENT. -/
theorem txSlots_onLctrl {s : State} (hp : Parameters s) (hw : SenderWindow s) (hs : TxSlots s)
    (hf : s.phase = .negotiating → s.frozen = false) (rsp : Bool) (pkt : BitVec 16) (win : Byte) :
    TxSlots (onLctrl s rsp pkt win) := by
  rcases onLctrl_cases s rsp pkt win with ⟨hn, h⟩ | ⟨-, h⟩ <;> rw [h]
  · have h0 : nOut s = 0 := nOut_of_not_frozen hp hw (hf hn)
    obtain ⟨-, -, -, hfree⟩ := hw
    intro i
    have hi : (swAt s i).st = .free := by
      by_cases hi : i < s.sw.length
      · exact hfree i hi fun k hk => absurd (h0 ▸ hk) (Nat.not_lt_zero k)
      · rw [swAt_of_le (Nat.le_of_not_lt hi)]
    exact ⟨(hs i).1, fun _ hst => absurd (hi.symm.trans hst) nofun⟩
  · exact hs

theorem transmitter_finishFlag {s : State} (hb : TxBuffer s) (hs : TxSlots s) :
    TxBuffer (finishFlag s) ∧ TxSlots (finishFlag s) := by
  rw [finishFlag_frame]
  exact ⟨hb, hs⟩

theorem Handler.transmitter {s u : State} {e : Event} (h : Handler s e u) (hl : Lifecycle s) (hp : Parameters s)
    (hw : SenderWindow s) (hb : TxBuffer s) (hs : TxSlots s) : TxBuffer u ∧ TxSlots u := by
  have hclosed : ∀ cur i, TxSlot .closed cur i (swAt s i) := fun cur i => (hs i).of_not_opened nofun
  have hrx : TxSlots { s with rxEn := false } := hs
  have hfree : s.phase = .negotiating → s.frozen = false := not_frozen_of_negotiating hl
  cases h with
  | answer | schedLctrl | badCmdR => exact ⟨hb, hs⟩
  | start => exact ⟨hb, fun i => (hs i).of_not_opened nofun⟩
  | closeIdle | close => exact ⟨hb, hclosed _⟩
  | push _ _ buf =>
    refine ⟨?_, txSlots_pushOpen hs buf⟩
    rw [pushOpen, pushLoop_frame]
    exact hb
  | wrcsr w =>
    refine csrWrite_keeps (P := fun u => TxBuffer u ∧ TxSlots u) ⟨hb, hs⟩ (fun c v => ?_) _ _
    rw [csrStore_frame]
    exact ⟨hb, hs⟩
  | pull _ n timeout => rcases pullCommand_cases s n timeout with ⟨-, h⟩ | ⟨-, h⟩ <;> rw [h] <;> exact ⟨hb, hs⟩
  | rxByte b =>
    rw [endRxByte_rxDecodeByte_frame]
    exact ⟨hb, hs⟩
  | rxFlag => exact transmitter_finishFlag hb hs
  | rxDrop b he c => exact transmitter_finishFlag (by cases c <;> exact hb) (by cases c <;> exact hs)
  | data b he q a p =>
    refine transmitter_finishFlag ?_ ?_ <;> rw [onFrame_frame]
    · rw [onAck_frame]
      exact hb
    · exact txSlots_onAck hrx a
  | ack b he a => exact transmitter_finishFlag (by rw [onAck_frame]; exact hb) (txSlots_onAck hrx a)
  | nack b he a => exact transmitter_finishFlag (by rw [onNack_frame]; exact hb) (txSlots_onNack hrx a)
  | lctrl b he rsp pkt win =>
    refine transmitter_finishFlag ?_ (txSlots_onLctrl (s := { s with rxEn := false }) hp hw hs hfree rsp pkt win)
    rcases onLctrl_cases { s with rxEn := false } rsp pkt win with ⟨-, h⟩ | ⟨-, h⟩ <;> rw [h] <;> exact hb
  | lctrlFin => exact transmitter_finishFlag hb (hclosed _)
  | txByte b rest h => exact ⟨txBuffer_onTxByte hb h, txSlots_onTxByte hs b rest⟩
  | linkFault k =>
    rcases onLinkFault_cases s k with h | ⟨c, -, -, h⟩ | ⟨hc, h⟩ <;> rw [h]
    · exact ⟨hb, hs⟩
    · exact ⟨⟨Nat.zero_le _, iff_of_true rfl rfl⟩, txSlots_fatal hs c 0⟩
    · exact ⟨⟨Nat.zero_le _, iff_of_true rfl rfl⟩, fun i => (hs i).of_not_opened (by simp [hc])⟩
  | tick =>
    refine onTick_keeps (P := fun u => TxBuffer u ∧ TxSlots u) (fun _ _ => ⟨hb, hs⟩)
      (fun u ⟨hbu, hsu⟩ => ⟨?_, txSlots_senderTick hsu⟩) (fun _ _ h => h)
    rcases senderTick_cases u with ⟨sw, h⟩ | ⟨-, sw, info, h⟩ <;> rw [h]
    · exact hbu
    · exact ⟨Nat.zero_le _, iff_of_true rfl rfl⟩

/-- Settles O56: the capacity of `TXBUF` and its agreement with `TX_CUR`, and beside them each slot's agreement with
both, over the handlers and over `TX_KICK`. -/
theorem stepKeepsTransmitter : Obligations.StepKeepsTransmitter := by
  intro s t hl hp hw hs h
  have hpt := stepKeepsParameters s t hp h
  obtain ⟨hb, hslots⟩ := (transmitter_iff s).mp hs
  rcases step_inversion h with ⟨-, rfl⟩ | ⟨e, rest, -, rfl | ⟨-, rfl⟩ | ⟨u, hu, rfl⟩⟩
  · exact hs
  · exact hs
  · exact transmitter_resetOf s.build
  · have hpu : Parameters u := parameters_congr (parameterRegs_closing u).symm hpt
    obtain ⟨hbu, hsu⟩ := hu.transmitter hl hp hw hb hslots
    exact (transmitter_iff _).mpr (transmitter_closing hpu (hu.senderWindow hl hp hw) hbu hsu)

/-! ### The reassembly file (R47, R53 (3)) -/

/-- What `Reassembly` asks of slot `j` between and within steps; its clause about the head slot holds only behind
`DRAIN`. -/
abbrev RbSlot.Ok (s : State) (j : Nat) (r : RbSlot) : Prop :=
  (s.frozen = false → r.valid = false) ∧
  (s.phase = .opened → r.valid = true →
    slotIndex s r.seq = j ∧ (r.seq - s.rcvExp).toNat < s.effWin.toNat ∧ r.len.toNat ≤ s.effPkt.toNat ∧
      Written r.data r.len)

abbrev RbSlots (s : State) : Prop := s.rb.length = s.build.wMax ∧ ∀ j, (rbAt s j).Ok s j

theorem Reassembly.rbSlots {s : State} (hs : Reassembly s) : RbSlots s := by
  obtain ⟨hlen, hempty, hheld, -⟩ := hs
  refine ⟨hlen, fun j => ?_⟩
  by_cases hj : j < s.rb.length
  · exact ⟨fun hf => hempty hf j hj, fun hp => hheld hp j hj⟩
  · rw [rbAt_of_le (Nat.le_of_not_lt hj)]
    exact ⟨fun _ => rfl, nofun⟩

/-- A frame of the acceptance window in the head slot is the expected one (R45, R47). -/
theorem seq_eq_rcvExp_of_head {s : State} (hp : Parameters s) {q : Seq} (hi : slotIndex s q = slotIndex s s.rcvExp)
    (hd : (q - s.rcvExp).toNat < s.effWin.toNat) : q = s.rcvExp := by
  have hwin := effWin_le_wMax hp
  have hq : s.rcvExp + BitVec.ofNat 8 (q - s.rcvExp).toNat = q := by
    rw [BitVec.ofNat_toNat, BitVec.setWidth_eq]
    bv_omega
  have hzero : (q - s.rcvExp).toNat = 0 :=
    slotIndex_add_inj hp.1 (q := s.rcvExp) (by omega) (Build.ok_wMax_pos hp.1) (by rw [hq, hi]; simp)
  rw [← hq, hzero]
  simp

theorem RbSlots.reassembly {s : State} (hs : RbSlots s) (hp : Parameters s) (hr : headReady s = false) :
    Reassembly s := by
  obtain ⟨hlen, hslots⟩ := hs
  refine ⟨hlen, fun hf j _ => (hslots j).1 hf, fun ho j _ => (hslots j).2 ho, fun ho hv => ?_⟩
  obtain ⟨hi, hd, -⟩ := (hslots _).2 ho hv
  have hseq := seq_eq_rcvExp_of_head hp hi hd
  refine ⟨hseq, Nat.lt_of_not_le fun hle => ?_⟩
  rw [(headReady_iff s).mpr ⟨ho, hv, hseq, hle⟩] at hr
  cases hr

/-- With the head delivered, the frames behind it are one number closer to `RCV_EXP` (R153). -/
theorem rbSlots_deliver {s : State} (hr : headReady s = true) (hs : RbSlots s) : RbSlots (deliver s) := by
  obtain ⟨hlen, hslots⟩ := hs
  have hrb : ∀ j, (deliver s).rb.getD j {} = if j = slotIndex s s.rcvExp then
      { rbAt s (slotIndex s s.rcvExp) with valid := false } else rbAt s j := fun j => by
    rw [deliver_rb]
    exact getD_modify s.rb _ j _ {} (slotIndex_lt_of_headReady hr)
  rw [deliver_frame]
  refine ⟨?_, fun j => ?_⟩
  · rw [deliver_rb]
    exact (List.length_modify ..).trans hlen
  · change RbSlot.Ok _ j ((deliver s).rb.getD j {})
    rw [hrb]
    split
    · exact ⟨fun _ => rfl, nofun⟩
    · next hj =>
      obtain ⟨hempty, hheld⟩ := hslots j
      refine ⟨hempty, fun ho hv => ?_⟩
      obtain ⟨hi, hd, hmax, hwritten⟩ := hheld ho hv
      have hne : (rbAt s j).seq ≠ s.rcvExp := fun h => hj (by rw [← hi, h])
      refine ⟨hi, ?_, hmax, hwritten⟩
      change ((rbAt s j).seq - (s.rcvExp + 1)).toNat < s.effWin.toNat
      bv_omega

theorem rbSlots_drain {s : State} (hs : RbSlots s) : RbSlots (drain s) :=
  drain_keeps (P := RbSlots) (fun _ => rbSlots_deliver) (fun _ h => h) hs

/-- `STORE` of a payload within `EFF_PKT` that lies in the acceptance window (R152). -/
theorem rbSlots_store {s : State} (hs : RbSlots s) (hf : s.frozen = true) {q : Seq} {p : List Byte}
    (hd : (q - s.rcvExp).toNat < s.effWin.toNat) (hmax : p.length ≤ s.effPkt.toNat) : RbSlots (store s q p) := by
  have hlen16 : (BitVec.ofNat 16 p.length).toNat = p.length := by
    have := s.effPkt.isLt
    rw [BitVec.toNat_ofNat]
    omega
  obtain ⟨hlen, hslots⟩ := hs
  unfold store
  dsimp only
  split
  · exact ⟨hlen, hslots⟩
  · refine ⟨(List.length_modify ..).trans hlen, fun j => ?_⟩
    rcases rbAt_modifyRb_cases s (slotIndex s q) j (fun slot =>
      { valid := true, seq := q, len := BitVec.ofNat 16 p.length, data := slot.data.writeRun 0 p })
      with h | ⟨rfl, -, h⟩ <;> rw [h]
    · exact hslots j
    · refine ⟨fun h => absurd (hf.symm.trans h) nofun, fun _ _ => ⟨rfl, hd, hlen16.symm ▸ hmax, fun o ho => ?_⟩⟩
      rw [hlen16] at ho
      rw [Memory.read_writeRun_zero _ _ ho]
      rfl

theorem rbSlots_onFrame {s : State} (hs : RbSlots s) (hf : s.frozen = true) (q : Seq) {p : List Byte}
    (hmax : p.length ≤ s.effPkt.toNat) : RbSlots (onFrame s q p) :=
  onFrame_keeps (P := RbSlots) (fun _ => rbSlots_drain) (fun _ _ h => h) (fun _ h => h) hs
    fun hd => rbSlots_store hs hf hd hmax

theorem rbSlots_finishFlag {s : State} (hs : RbSlots s) : RbSlots (finishFlag s) := by
  rw [finishFlag_frame]
  exact hs

/-- Outside phase OPEN only the clause about the freeze is left. -/
theorem RbSlot.Ok.of_not_opened {s u : State} {j : Nat} {r : RbSlot} (h : r.Ok s j) (hf : u.frozen = s.frozen)
    (hp : u.phase ≠ .opened) : r.Ok u j := ⟨fun h' => h.1 (hf.symm.trans h'), fun h => absurd h hp⟩

/-- At the freeze nothing is held yet (R40, R174). -/
theorem rbSlots_onLctrl {s : State} (hs : RbSlots s) (hf : s.phase = .negotiating → s.frozen = false) (rsp : Bool)
    (pkt : BitVec 16) (win : Byte) : RbSlots (onLctrl s rsp pkt win) := by
  obtain ⟨hlen, hslots⟩ := hs
  rcases onLctrl_cases s rsp pkt win with ⟨hn, h⟩ | ⟨-, h⟩ <;> rw [h]
  · have hempty : ∀ j, (rbAt s j).valid = false := fun j => (hslots j).1 (hf hn)
    exact ⟨hlen, fun j => ⟨fun _ => hempty j, fun _ hv => absurd ((hempty j).symm.trans hv) nofun⟩⟩
  · exact ⟨hlen, hslots⟩

theorem Handler.rbSlots {s u : State} {e : Event} (h : Handler s e u) (hl : Lifecycle s) (hs : RbSlots s) :
    RbSlots u := by
  have hrx : RbSlots { s with rxEn := false } := hs
  have hfree : s.phase = .negotiating → s.frozen = false := not_frozen_of_negotiating hl
  obtain ⟨hlen, hslots⟩ := id hs
  cases h with
  | answer | schedLctrl | badCmdR => exact hs
  | start | closeIdle | close => exact ⟨hlen, fun j => (hslots j).of_not_opened rfl nofun⟩
  | push _ _ buf =>
    rw [pushOpen, pushLoop_frame]
    exact hs
  | wrcsr w =>
    refine csrWrite_keeps (P := RbSlots) hs (fun c v => ?_) _ _
    rw [csrStore_frame]
    exact hs
  | pull _ n timeout => rcases pullCommand_cases s n timeout with ⟨-, h⟩ | ⟨-, h⟩ <;> rw [h] <;> exact hs
  | rxByte b =>
    rw [endRxByte_rxDecodeByte_frame]
    exact hs
  | rxFlag => exact rbSlots_finishFlag hs
  | rxDrop b he c => exact rbSlots_finishFlag (by cases c <;> exact hs)
  | data b he q a p hp hmax =>
    have hf : s.frozen = true := hl.2.1 hp
    rw [sizeLimit, if_pos hf] at hmax
    refine rbSlots_finishFlag (rbSlots_onFrame ?_ ?_ q ?_) <;> rw [onAck_frame]
    · exact hs
    · exact hf
    · exact hmax
  | ack b he a =>
    refine rbSlots_finishFlag ?_
    rw [onAck_frame]
    exact hs
  | nack b he a =>
    refine rbSlots_finishFlag ?_
    rw [onNack_frame]
    exact hs
  | lctrl b he rsp pkt win => exact rbSlots_finishFlag (rbSlots_onLctrl hrx hfree rsp pkt win)
  | lctrlFin => exact rbSlots_finishFlag ⟨hlen, fun j => (hslots j).of_not_opened rfl nofun⟩
  | txByte b rest =>
    rw [onTxByte_frame]
    exact hs
  | linkFault k =>
    rcases onLinkFault_cases s k with h | ⟨c, -, -, h⟩ | ⟨-, h⟩ <;> rw [h]
    · exact hs
    · exact ⟨hlen, fun j => (hslots j).of_not_opened rfl (by simp)⟩
    · exact hs
  | tick =>
    refine onTick_keeps (P := RbSlots) (fun _ _ => hs) (fun u hu => ?_) (fun _ _ h => h)
    rcases senderTick_cases u with ⟨sw, h⟩ | ⟨-, sw, info, h⟩ <;> rw [h]
    · exact hu
    · exact ⟨hu.1, fun j => (hu.2 j).of_not_opened rfl (by simp)⟩

theorem rbSlots_closing {s : State} (hs : RbSlots s) : RbSlots (closing s) := by
  refine closing_keeps (P := RbSlots) (fun _ => rbSlots_drain) (fun u hu => ?_) (fun u hu => ?_) hs
  · rw [pullCheck_frame]
    exact hu
  · rw [txKick_frame]
    exact hu

/-- The last `DRAIN` of a step leaves nothing that it could deliver. -/
theorem headReady_closing (s : State) : headReady (closing s) = false := by
  have h := headReady_drain (pullCheck (drain s))
  rw [closing, txKick_frame]
  generalize drain (pullCheck (drain s)) = v at h ⊢
  exact h

/-- Settles O57: every handler and every `DRAIN` keeps what is asked of the slots, and the last `DRAIN` of the step
gives the clause about the head. -/
theorem stepKeepsReassembly : Obligations.StepKeepsReassembly := by
  intro s t hl hp hs h
  have hpt := stepKeepsParameters s t hp h
  rcases step_inversion h with ⟨-, rfl⟩ | ⟨e, rest, -, rfl | ⟨-, rfl⟩ | ⟨u, hu, rfl⟩⟩
  · exact hs
  · exact hs
  · exact reassembly_resetOf s.build
  · exact (rbSlots_closing (hu.rbSlots hl hs.rbSlots)).reassembly hpt (headReady_closing u)

/-! ### `PUSH` in phase OPEN (R132, R191) -/

/-- The state after `SEND` of the first `m` chunks of `e` bytes each of `buf`. -/
def sendChunks (s : State) (e : Nat) (buf : List Byte) : Nat → State
  | 0 => s
  | m + 1 => send (sendChunks s e buf m) ((buf.drop (m * e)).take e)

theorem sendChunks_succ (s : State) (e : Nat) (buf : List Byte) (m : Nat) :
    sendChunks s e buf (m + 1) = sendChunks (send s (buf.take e)) e (buf.drop e) m := by
  induction m with
  | zero => simp [sendChunks]
  | succ m ih =>
    rw [sendChunks, ih, sendChunks, List.drop_drop]
    congr 4
    ring

/-- The number of chunks: cutting `n` bytes into chunks of `e`, the last one possibly shorter. -/
def chunkCount (n e : Nat) : Nat := (n + e - 1) / e

theorem chunkCount_zero {e : Nat} (he : 1 ≤ e) : chunkCount 0 e = 0 := Nat.div_eq_of_lt (by omega)

/-- No more than `w` chunks fit into `w` frames. -/
theorem chunkCount_le {n e w : Nat} (he : 1 ≤ e) (h : n ≤ w * e) : chunkCount n e ≤ w := by
  refine Nat.le_of_lt_succ ((Nat.div_lt_iff_lt_mul (by omega)).mpr ?_)
  rw [Nat.succ_mul]
  omega

/-- Taking one chunk off a run of which at most `a + e` bytes are accepted. -/
theorem accepted_succ {len e a : Nat} (he : 1 ≤ e) (hl : 1 ≤ len) :
    min len (a + e) = min (len - e) a + min e len ∧
      chunkCount (min len (a + e)) e = chunkCount (min (len - e) a) e + 1 := by
  by_cases h : e ≤ len
  · have hk : min len (a + e) = min (len - e) a + e := by omega
    refine ⟨by omega, ?_⟩
    rw [hk, chunkCount, chunkCount, ← Nat.add_div_right _ (by omega)]
    congr 1
    omega
  · have hrest : min (len - e) a = 0 := by omega
    have hk : min len (a + e) = len := by omega
    rw [hrest, hk, chunkCount_zero he]
    exact ⟨by omega, Nat.div_eq_of_lt_le (by omega) (by omega)⟩

/-- The loop of `PUSH` sends greedily cut chunks until the window is full (R191); as many rounds as the window is
wide are enough (log entry 13). -/
theorem pushLoop_eq {fuel : Nat} {s : State} (he : 1 ≤ s.effPkt.toNat) (hw : s.effWin.toNat ≤ 128)
    (hf : s.effWin.toNat ≤ fuel + nOut s) (buf : List Byte) :
    pushLoop fuel s buf =
      (sendChunks s s.effPkt.toNat buf
        (chunkCount (min buf.length ((s.effWin.toNat - nOut s) * s.effPkt.toNat)) s.effPkt.toNat),
        min buf.length ((s.effWin.toNat - nOut s) * s.effPkt.toNat)) := by
  induction fuel generalizing s buf with
  | zero =>
    have hk : s.effWin.toNat - nOut s = 0 := by omega
    simp [pushLoop, hk, chunkCount_zero he, sendChunks]
  | succ fuel ih =>
    simp only [pushLoop, ← List.take_eq_take_min, ← List.drop_eq_drop_min]
    split
    · next h =>
      obtain ⟨hl, hopen⟩ := h
      have hn := nOut_send (s := s) (by omega) (buf.take s.effPkt.toNat)
      have hf' : s.effWin.toNat ≤ fuel + nOut (send s (buf.take s.effPkt.toNat)) := by omega
      have hrec := ih (s := send s (buf.take s.effPkt.toNat)) he hw hf' (buf.drop s.effPkt.toNat)
      have hfree : s.effWin.toNat - nOut s = s.effWin.toNat - (nOut s + 1) + 1 := by omega
      obtain ⟨hk, hcount⟩ := accepted_succ (a := (s.effWin.toNat - (nOut s + 1)) * s.effPkt.toNat) he hl
      rw [hn, List.length_drop] at hrec
      rw [hrec, hfree, Nat.succ_mul, hcount, hk, sendChunks_succ]
      rfl
    · next h =>
      have hk : min buf.length ((s.effWin.toNat - nOut s) * s.effPkt.toNat) = 0 := by
        by_cases hl : buf.length = 0
        · simp [hl]
        · have hfull : s.effWin.toNat - nOut s = 0 := by omega
          simp [hfull]
      rw [hk, chunkCount_zero he]
      rfl

/-- Sending chunks writes `SW` and `SND_NEXT` only. -/
theorem sendChunks_frame (s : State) (e : Nat) (buf : List Byte) (m : Nat) :
    sendChunks s e buf m = { s with sw := (sendChunks s e buf m).sw, sndNext := s.sndNext + BitVec.ofNat 8 m } := by
  induction m with
  | zero => simp [sendChunks]
  | succ m ih =>
    have hnext : s.sndNext + BitVec.ofNat 8 (m + 1) = s.sndNext + BitVec.ofNat 8 m + 1 := by
      rw [BitVec.ofNat_add, BitVec.add_assoc]
      rfl
    rw [hnext, sendChunks, ih]
    rfl

theorem sendChunks_sw_length (s : State) (e : Nat) (buf : List Byte) (m : Nat) :
    (sendChunks s e buf m).sw.length = s.sw.length := by
  induction m with
  | zero => rfl
  | succ m ih => exact (modifySw_sw_length _ _ _).trans ih

section
variable {s : State} (hb : s.build.ok = true) (hlen : s.sw.length = s.build.wMax) (e : Nat) (buf : List Byte)
include hb hlen

/-- The `m`-th chunk goes to the slot of the `m`-th next sequence number. -/
theorem swAt_sendChunks_succ (m j : Nat) :
    swAt (sendChunks s e buf (m + 1)) j =
      if j = slotIndex s (s.sndNext + BitVec.ofNat 8 m) then
        sentSlot { s with sndNext := s.sndNext + BitVec.ofNat 8 m } ((buf.drop (m * e)).take e)
          (swAt (sendChunks s e buf m) (slotIndex s (s.sndNext + BitVec.ofNat 8 m)))
      else swAt (sendChunks s e buf m) j := by
  have hframe := sendChunks_frame s e buf m
  have hidx : slotIndex (sendChunks s e buf m) (sendChunks s e buf m).sndNext
      = slotIndex s (s.sndNext + BitVec.ofNat 8 m) := by rw [hframe]; rfl
  have hsent : ∀ c old, sentSlot (sendChunks s e buf m) c old
      = sentSlot { s with sndNext := s.sndNext + BitVec.ofNat 8 m } c old := fun c old => by rw [hframe]; rfl
  rw [sendChunks, swAt_send (by rw [hidx, sendChunks_sw_length, hlen]; exact slotIndex_lt hb _), hidx, hsent]

theorem swAt_sendChunks_other {m j : Nat} (hj : ∀ n < m, slotIndex s (s.sndNext + BitVec.ofNat 8 n) ≠ j) :
    swAt (sendChunks s e buf m) j = swAt s j := by
  induction m with
  | zero => rfl
  | succ m ih =>
    rw [swAt_sendChunks_succ hb hlen, if_neg fun h => hj m (by omega) h.symm]
    exact ih fun n hn => hj n (by omega)

theorem swAt_sendChunks {m n : Nat} (hn : n < m) (hm : m ≤ s.build.wMax) :
    swAt (sendChunks s e buf m) (slotIndex s (s.sndNext + BitVec.ofNat 8 n)) =
      sentSlot { s with sndNext := s.sndNext + BitVec.ofNat 8 n } ((buf.drop (n * e)).take e)
        (swAt s (slotIndex s (s.sndNext + BitVec.ofNat 8 n))) := by
  induction m with
  | zero => omega
  | succ m ih =>
    rw [swAt_sendChunks_succ hb hlen]
    by_cases hnm : n = m
    · subst hnm
      rw [if_pos rfl, swAt_sendChunks_other hb hlen]
      intro k hk h
      have := slotIndex_add_inj hb (by omega) (by omega) h
      omega
    · rw [if_neg fun h => hnm (slotIndex_add_inj hb (by omega) (by omega) h)]
      exact ih (by omega) (by omega)

end

/-- Settles O20: the loop of `PUSH` is a run of `SEND`s to distinct slots. -/
theorem pushByPhase : Obligations.PushByPhase := by
  refine ⟨fun _ => rfl, fun _ _ => rfl, fun s buf => ⟨?_, ?_, ?_⟩, ?_⟩
  · rintro (hp | hp) <;> simp [exec, execPush, hp, emitT]
  · intro hp
    simp [exec, execPush, hp, emitT]
  · intro hp
    simp [exec, execPush, hp, emitT]
  intro s buf hp hf hpar hlen _ e k f
  obtain ⟨hb, -, -, -, -, -, hfrozen, -⟩ := id hpar
  obtain ⟨⟨he, -⟩, -, hwin⟩ := hfrozen hf
  have hw128 := Build.ok_wMax_le hb
  have hpush : pushOpen s buf = (sendChunks s e buf f, k) := pushLoop_eq he (by omega) (by omega) buf
  have hfw : f ≤ s.build.wMax := (chunkCount_le he (Nat.min_le_right _ _)).trans (by omega)
  refine ⟨(sendChunks s e buf f).sw, ?_, fun m hm => ?_, fun j hj => swAt_sendChunks_other hb hlen e buf hj⟩
  · have hexec : exec (.push buf) s
        = .next (emitT (pushOpen s buf).1 .ok (BitVec.ofNat 16 (pushOpen s buf).2) 0) := by
      simp only [exec, execPush, hp]
    rw [hexec, hpush, sendChunks_frame]
    rfl
  · have hslot := swAt_sendChunks hb hlen e buf hm hfw
    have hc : ((buf.drop (m * e)).take e).length < 65536 :=
      (List.length_take_le _ _).trans_lt s.effPkt.isLt
    intro c w old
    have hw : w = _ := hslot
    rw [hw]
    exact ⟨rfl, rfl, sentSlot_len hc _ _, sentSlot_read _ _ _, rfl, by simp [sentSlot, rtoDeadline, interval], rfl, rfl,
      rfl⟩

/-! ### The byte stores (R60), for the reachable states -/

theorem forall_mem_iff_forall_getD {α : Type} {Q : α → Prop} (l : List α) {d : α} (hd : Q d) :
    (∀ x ∈ l, Q x) ↔ ∀ i, Q (l.getD i d) := by
  constructor
  · intro h i
    rw [List.getD_eq_getElem?_getD]
    cases hi : l[i]? with
    | none => exact hd
    | some x => exact h x (List.mem_of_getElem? hi)
  · intro h x hx
    obtain ⟨i, hi, rfl⟩ := List.getElem_of_mem hx
    simpa [hi] using h i

/-- The slots of the sender file keep their bytes inside their capacity. -/
abbrev SwStores (s : State) : Prop := ∀ i, StoreOk (swAt s i).data s.build.pMax

/-- The slots of the reassembly file keep their bytes inside their capacity. -/
abbrev RbStores (s : State) : Prop := ∀ j, StoreOk (rbAt s j).data s.build.pMax

theorem stores_iff (s : State) :
    Stores s ↔ StoreOk s.rxbuf (s.build.pMax + 7) ∧ SwStores s ∧ RbStores s := by
  have hsw := forall_mem_iff_forall_getD (Q := fun w => StoreOk w.data s.build.pMax) s.sw (d := {}) (storeOk_nil _)
  have hrb := forall_mem_iff_forall_getD (Q := fun r => StoreOk r.data s.build.pMax) s.rb (d := {}) (storeOk_nil _)
  exact and_congr_right' (and_congr hsw hrb)

theorem storeOk_write {m : Memory} {cap a : Nat} (h : StoreOk m cap) (ha : a < cap) (b : Byte) :
    StoreOk (m.write a b) cap := by
  refine ⟨Memory.write_wf h.1 a b, fun c hc => ?_⟩
  rcases Memory.mem_write hc with rfl | hc
  · exact ha
  · exact h.2 c hc

theorem storeOk_writeRun {m : Memory} {cap : Nat} {bs : List Byte} (h : StoreOk m cap) (hbs : bs.length ≤ cap) :
    StoreOk (m.writeRun 0 bs) cap := by
  refine ⟨Memory.writeRun_wf h.1 0 bs, fun c hc => ?_⟩
  rcases Memory.mem_writeRun hc with hc | hc
  · omega
  · exact h.2 c hc

theorem swStores_modifySw {s : State} (hs : SwStores s) {i : Nat} {f : SwSlot → SwSlot}
    (hf : StoreOk (f (swAt s i)).data s.build.pMax) : SwStores (modifySw s i f) := by
  intro j
  rcases swAt_modifySw_cases s i j f with h | ⟨rfl, -, h⟩ <;> rw [h]
  · exact hs j
  · exact hf

theorem swStores_onAck {s : State} (hs : SwStores s) (a : Seq) : SwStores (onAck s a) := by
  have hb : (onAck s a).build = s.build := by rw [onAck_frame]
  intro i
  rw [hb]
  exact onAck_slots_keep (Q := fun _ w => StoreOk w.data s.build.pMax) (fun _ _ h => h) (fun _ _ h => h) hs a i

theorem swStores_onNack {s : State} (hs : SwStores s) (a : Seq) : SwStores (onNack s a) := by
  have hack := swStores_onAck hs a
  unfold onNack fastRetransmit
  dsimp only
  split
  · split
    · exact swStores_modifySw hack (hack _)
    · exact hack
  · exact hack

/-- `PUSH` cuts chunks of at most `EFF_PKT` bytes (R191). -/
theorem swStores_pushOpen {s : State} (hp : Parameters s) (hs : SwStores s) (buf : List Byte) :
    SwStores (pushOpen s buf).1 := by
  refine (pushLoop_keeps (P := fun u => SwStores u ∧ Parameters u) (fun u c ⟨hu, hpu⟩ _ hc _ => ?_) _ buf ⟨hs, hp⟩).1
  exact ⟨swStores_modifySw hu (storeOk_writeRun (hu _) (hc.trans (effPkt_le_pMax hpu))), hpu⟩

theorem swStores_senderTick {s : State} (hs : SwStores s) : SwStores (senderTick s) := by
  refine senderTick_keeps (P := SwStores) (fun u k _ hu => ?_) hs
  rcases onTimeout_cases u (outIndex u k) with ⟨-, h⟩ | ⟨-, h⟩ <;> rw [h]
  · exact hu
  · exact swStores_modifySw hu (hu _)

theorem swStores_onTxByte {s : State} (hs : SwStores s) (b : Byte) (rest : List Byte) :
    SwStores (onTxByte s b rest) := by
  have h : SwStores (emitWire { s with txbuf := rest } b) := hs
  unfold onTxByte
  dsimp only
  generalize emitWire { s with txbuf := rest } b = s1 at h ⊢
  split
  · rcases txDone_cases s1 with ⟨-, h1⟩ | ⟨i, q, -, -, -, -, h1⟩ <;> rw [h1]
    · exact h
    · exact swStores_modifySw h (h i)
  · exact h

theorem swStores_txKick {s : State} (hs : SwStores s) : SwStores (txKick s) := by
  refine txKick_keeps (P := SwStores) fun t ht => ?_
  cases ht with
  | idle | fin | lctrl | ack => exact hs
  | data => exact swStores_modifySw (s := loadFrame s _ _ _ _ _) hs (hs _)

theorem rbStores_deliver {s : State} (hs : RbStores s) : RbStores (deliver s) := by
  intro j
  rw [deliver_frame]
  change StoreOk ((deliver s).rb.getD j {}).data s.build.pMax
  rw [deliver_rb]
  rcases getD_modify_cases s.rb (slotIndex s s.rcvExp) j (fun slot => { slot with valid := false }) {}
    with h | ⟨-, -, h⟩ <;> rw [h] <;> exact hs j

theorem rbStores_drain {s : State} (hs : RbStores s) : RbStores (drain s) :=
  drain_keeps (P := RbStores) (fun _ _ => rbStores_deliver) (fun _ h => h) hs

theorem rbStores_store {s : State} (hs : RbStores s) (q : Seq) {p : List Byte} (hp : p.length ≤ s.build.pMax) :
    RbStores (store s q p) := by
  unfold store
  dsimp only
  split
  · exact hs
  · intro j
    rcases rbAt_modifyRb_cases s (slotIndex s q) j (fun slot =>
      { valid := true, seq := q, len := BitVec.ofNat 16 p.length, data := slot.data.writeRun 0 p })
      with h | ⟨rfl, -, h⟩ <;> rw [h]
    · exact hs j
    · exact storeOk_writeRun (hs _) hp

theorem rbStores_onFrame {s : State} (hs : RbStores s) (q : Seq) {p : List Byte} (hp : p.length ≤ s.build.pMax) :
    RbStores (onFrame s q p) :=
  onFrame_keeps (P := RbStores) (fun _ => rbStores_drain) (fun _ _ h => h) (fun _ h => h) hs
    fun _ => rbStores_store hs q hp

/-- A byte is appended below the end of `RXBUF` only (R115). -/
theorem storeOk_rxDecodeByte {s : State} (hs : StoreOk s.rxbuf (s.build.pMax + 7)) (hrx : s.rxlen ≤ s.build.pMax + 7)
    (b : Byte) : StoreOk (rxDecodeByte s b).rxbuf (s.build.pMax + 7) := by
  unfold rxDecodeByte
  dsimp only
  split
  · exact hs
  · split
    · exact hs
    · split
      · exact hs
      · next h =>
        simp only [Build.rxCap] at h
        exact storeOk_write hs (by omega) _

/-- The size limit of `FRAME_CHECK` is at most `P_MAX` (R116 step 6). -/
theorem sizeLimit_le_pMax {s : State} (hp : Parameters s) : sizeLimit s ≤ s.build.pMax := by
  unfold sizeLimit
  split
  · exact effPkt_le_pMax hp
  · exact hp.2.1.2

/-- The three parts of `Stores`, with the slots read by index. -/
abbrev StoresByIndex (s : State) : Prop := StoreOk s.rxbuf (s.build.pMax + 7) ∧ SwStores s ∧ RbStores s

theorem storesByIndex_finishFlag {s : State} (hs : StoresByIndex s) : StoresByIndex (finishFlag s) := by
  rw [finishFlag_frame]
  exact hs

theorem Handler.stores {s u : State} {e : Event} (h : Handler s e u) (hp : Parameters s)
    (hlen : s.rxlen ≤ s.build.pMax + 7) (hs : StoresByIndex s) : StoresByIndex u := by
  obtain ⟨hrxbuf, hsw, hrb⟩ := id hs
  have hsw' : SwStores { s with rxEn := false } := hsw
  cases h with
  | answer | start | closeIdle | close | schedLctrl | badCmdR => exact hs
  | push _ _ buf =>
    refine ⟨?_, swStores_pushOpen hp hsw buf, ?_⟩ <;> rw [pushOpen, pushLoop_frame]
    · exact hrxbuf
    · exact hrb
  | wrcsr w =>
    refine csrWrite_keeps (P := StoresByIndex) hs (fun c v => ?_) _ _
    rw [csrStore_frame]
    exact hs
  | pull _ n timeout => rcases pullCommand_cases s n timeout with ⟨-, h⟩ | ⟨-, h⟩ <;> rw [h] <;> exact hs
  | rxByte b =>
    rw [endRxByte_rxDecodeByte_frame]
    exact ⟨storeOk_rxDecodeByte (s := { s with rxEn := false }) hrxbuf hlen b, hsw, hrb⟩
  | rxFlag | lctrlFin => exact storesByIndex_finishFlag hs
  | rxDrop b he c => exact storesByIndex_finishFlag (by cases c <;> exact hs)
  | data b he q a p _ hmax =>
    have hmax := hmax.trans (sizeLimit_le_pMax hp)
    have hack : RbStores (onAck { s with rxEn := false } a) := by rw [onAck_frame]; exact hrb
    refine storesByIndex_finishFlag ⟨?_, ?_, rbStores_onFrame hack q ?_⟩
    · rw [onFrame_frame, onAck_frame]
      exact hrxbuf
    · rw [onFrame_frame]
      exact swStores_onAck hsw' a
    · rw [onAck_frame]
      exact hmax
  | ack b he a =>
    refine storesByIndex_finishFlag ⟨?_, swStores_onAck hsw' a, ?_⟩ <;> rw [onAck_frame]
    · exact hrxbuf
    · exact hrb
  | nack b he a =>
    refine storesByIndex_finishFlag ⟨?_, swStores_onNack hsw' a, ?_⟩ <;> rw [onNack_frame]
    · exact hrxbuf
    · exact hrb
  | lctrl b he rsp pkt win =>
    refine storesByIndex_finishFlag ?_
    rcases onLctrl_cases { s with rxEn := false } rsp pkt win with ⟨-, h⟩ | ⟨-, h⟩ <;> rw [h] <;> exact hs
  | txByte b rest =>
    refine ⟨?_, swStores_onTxByte hsw b rest, ?_⟩ <;> rw [onTxByte_frame]
    · exact hrxbuf
    · exact hrb
  | linkFault k => rcases onLinkFault_cases s k with h | ⟨c, -, -, h⟩ | ⟨-, h⟩ <;> rw [h] <;> exact hs
  | tick =>
    refine onTick_keeps (P := StoresByIndex) (fun _ _ => hs) (fun u ⟨hr, hw, hb⟩ => ?_) (fun _ _ h => h)
    refine ⟨?_, swStores_senderTick hw, ?_⟩ <;>
      rcases senderTick_cases u with ⟨sw, h⟩ | ⟨-, sw, info, h⟩ <;> rw [h]
    · exact hr
    · exact hr
    · exact hb
    · exact hb

theorem storesByIndex_closing {s : State} (hs : StoresByIndex s) : StoresByIndex (closing s) := by
  refine closing_keeps (P := StoresByIndex) (fun u ⟨hr, hw, hb⟩ => ?_) (fun u hu => ?_) (fun u ⟨hr, hw, hb⟩ => ?_) hs
  · refine ⟨?_, ?_, rbStores_drain hb⟩ <;> rw [drain_frame]
    · exact hr
    · exact hw
  · rw [pullCheck_frame]
    exact hu
  · refine ⟨?_, swStores_txKick hw, ?_⟩ <;> rw [txKick_frame]
    · exact hr
    · exact hb

theorem step_stores {s t : State} (hp : Parameters s) (hb : Buffers s) (hs : Stores s) (h : step s = .next t) :
    Stores t :=
  step_keeps h hs (fun _ => hs) (fun _ => stores_resetOf s.build) fun _ _ _ hh =>
    (stores_iff _).mpr (storesByIndex_closing (hh.stores hp hb.2.1 ((stores_iff s).mp hs)))

/-! ### The reachable states (R53) -/

theorem step_invariants {s t : State} (hs : Invariants s) (h : step s = .next t) : Invariants t := by
  obtain ⟨hl, hp, hw, htx, hrb, hb, hst⟩ := hs
  exact ⟨stepKeepsLifecycle s t hl h, stepKeepsParameters s t hp h, stepKeepsSenderWindow s t hl hp hw h,
    stepKeepsTransmitter s t hl hp hw htx h, stepKeepsReassembly s t hl hp hrb h, stepKeepsBuffers s t hb h,
    step_stores hp hb hst h⟩

theorem run_invariants {n : Nat} {s t : State} (hs : Invariants s) (h : core.run n s = .next t) : Invariants t := by
  induction n generalizing s with
  | zero =>
    cases h
    exact hs
  | succ n ih =>
    obtain ⟨u, hu⟩ := step_next s
    have hrun : core.run (n + 1) s = core.run n u := by
      simp only [Host.Core.run, core, hu]
    exact ih (step_invariants hs hu) (hrun ▸ h)

/-- Settles O60: by induction on the number of steps, from the reset state of any legal build. -/
theorem reachableStatesMeetTheInvariants : Obligations.ReachableStatesMeetTheInvariants :=
  fun b evs _ _ hb h => run_invariants (s := { State.resetOf b with events := evs }) (invariants_resetOf hb) h

end Sys2Proof.Machine

/-! SUPPORT. The statement of spec/20_memory.md: the byte stores over a step (R60). That a step keeps them is
`step_stores`, proved beside the invariants of the reachable states. -/

namespace Sys2Proof.Machine

/-- Settles O59: a run of bytes written to a slot is at most `P_MAX` long (a chunk by `EFF_PKT`, a received payload by
the size limit of R116), a byte is appended to `RXBUF` only below `RXCAP`, and a write keeps the canonical form. -/
theorem stepKeepsStores : Obligations.StepKeepsStores :=
  fun _ _ => step_stores

end Sys2Proof.Machine

/-! SUPPORT. The statements of spec/30_encoding.md: command words, frame bodies and byte stuffing, each with the
decoder that undoes it; then how a step takes an encoded event, and the response words. -/

namespace Sys2Proof.Machine

open Sys2Proof.Laws

/-! ### The fields of a command word (R95, R97) -/

@[simp] theorem arg32Of_cmdWord (opc : Byte) (a : BitVec 16) (v : BitVec 32) : arg32Of (cmdWord opc a v) = v :=
  BitVec.extractLsb'_append_eq_right

@[simp] theorem arg16Of_cmdWord (opc : Byte) (a : BitVec 16) (v : BitVec 32) : arg16Of (cmdWord opc a v) = a := by
  unfold arg16Of cmdWord
  rw [BitVec.extractLsb'_append_eq_of_le (by omega)]
  exact BitVec.extractLsb'_append_eq_right

/-- The CSR index is the low byte of `ARG16` (R97). -/
theorem idxOf_eq (w : Word64) : idxOf w = (arg16Of w).extractLsb' 0 8 := by
  ext k hk
  have hk16 : k < 16 := by omega
  simp [idxOf, arg16Of, hk16]

theorem idxOf_cmdWord (opc idx : Byte) (v : BitVec 32) : idxOf (cmdWord opc (0#8 ++ idx) v) = idx := by
  rw [idxOf_eq, arg16Of_cmdWord]
  exact BitVec.extractLsb'_append_eq_right

/-! ### The three encoded forms (R82, R95) -/

@[simp] theorem decode_portT (w : Word64) (d : List Byte) : decode (.portT w d) = decodePortT w d := rfl

@[simp] theorem decode_portR (w : Word64) : decode (.portR w) = decodePortR w := rfl

@[simp] theorem decode_frame (F : List Byte) : decode (.frame F) = decodeFrame F := rfl

/-! ### What each opcode of port T decodes to (R95, R97)

By `delta`, which needs no equation lemmas of `decodePortT`: proofs that run side by side would wait for each other to
generate them, a thread apiece. -/

section
variable {w : Word64} {d : List Byte}

theorem decodePortT_nop (h : opcOf w = 0x00) : decodePortT w d = .ok .nop := by
  delta decodePortT; rw [h]; rfl

theorem decodePortT_start (h : opcOf w = 0x01) : decodePortT w d = .ok .start := by
  delta decodePortT; rw [h]; rfl

theorem decodePortT_close (h : opcOf w = 0x02) : decodePortT w d = .ok .close := by
  delta decodePortT; rw [h]; rfl

theorem decodePortT_schedLctrl (h : opcOf w = 0x03) : decodePortT w d = .ok .schedLctrl := by
  delta decodePortT; rw [h]; rfl

theorem decodePortT_push (h : opcOf w = 0x04) :
    decodePortT w d = if d.length < (arg16Of w).toNat then .error .missingData
      else .ok (.push (d.take (arg16Of w).toNat)) := by
  delta decodePortT; rw [h]; rfl

theorem decodePortT_rdcsr (h : opcOf w = 0x06) : decodePortT w d = .ok (.rdcsr (idxOf w)) := by
  delta decodePortT; rw [h]; rfl

theorem decodePortT_wrcsr (h : opcOf w = 0x07) : decodePortT w d = .ok (.wrcsr (idxOf w) (arg32Of w)) := by
  delta decodePortT; rw [h]; rfl

theorem decodePortR_pull (h : opcOf w = 0x05) : decodePortR w = .ok (.pull (arg16Of w) (arg32Of w)) :=
  if_pos h

end

/-- A `PUSH` takes the bytes its length field counts, and all of them when it was encoded from them (R102). -/
theorem decode_encode_push {buf : List Byte} (h : buf.length ≤ 65535) :
    decode (encode (.push buf)) = .ok (.push buf) := by
  have hn : (BitVec.ofNat 16 buf.length).toNat = buf.length := by rw [BitVec.toNat_ofNat]; omega
  rw [encode, decode_portT, decodePortT_push (opcOf_cmdWord _ _ _), arg16Of_cmdWord, hn, if_neg (lt_irrefl _),
    List.take_length]

/-! ### The body of a frame (R82, R113) -/

@[simp] theorem length_frameHead (type seq ack : Byte) (p : List Byte) :
    (frameHead type seq ack p).length = p.length + 5 := by
  simp [frameHead, be16]

@[simp] theorem length_frameBody (type seq ack : Byte) (p : List Byte) :
    (frameBody type seq ack p).length = p.length + 7 := by
  simp [frameBody, le16]

/-- A 16-bit value is its high byte before its low byte (R100). -/
theorem word16_extract (v : BitVec 16) : word16 (v.extractLsb' 8 8) (v.extractLsb' 0 8) = v :=
  BitVec.extractLsb'_append_extractLsb'

/-- The bytes the integrity check covers (R88). -/
theorem take_frameBody (type seq ack : Byte) (p : List Byte) :
    (frameBody type seq ack p).take (p.length + 5) = frameHead type seq ack p :=
  List.take_left' (length_frameHead type seq ack p)

/-- Field `FCS` of a frame body, low byte first (R82). -/
theorem fcs_frameBody (type seq ack : Byte) (p : List Byte) :
    word16 (byteAt (frameBody type seq ack p) (p.length + 6)) (byteAt (frameBody type seq ack p) (p.length + 5))
      = crc16 (frameHead type seq ack p) := by
  have hbyte : ∀ k, byteAt (frameBody type seq ack p) (p.length + 5 + k)
      = byteAt (le16 (crc16 (frameHead type seq ack p))) k := by
    intro k
    rw [byteAt, frameBody, List.getD_append_right _ _ _ _ (by simp), length_frameHead, Nat.add_sub_cancel_left, byteAt]
  rw [hbyte 0, hbyte 1]
  exact word16_extract _

/-- Field `LEN` of a frame body, high byte first (R87). -/
theorem len_frameBody (type seq ack : Byte) {p : List Byte} (h : p.length ≤ 65535) :
    (word16 (byteAt (frameBody type seq ack p) 3) (byteAt (frameBody type seq ack p) 4)).toNat = p.length := by
  have hlen : word16 (byteAt (frameBody type seq ack p) 3) (byteAt (frameBody type seq ack p) 4)
      = BitVec.ofNat 16 p.length := word16_extract _
  rw [hlen, BitVec.toNat_ofNat]
  omega

theorem payload_frameBody (type seq ack : Byte) (p : List Byte) :
    ((frameBody type seq ack p).drop 5).take p.length = p := by
  have hdrop : (frameBody type seq ack p).drop 5 = p ++ le16 (crc16 (frameHead type seq ack p)) := rfl
  rw [hdrop, List.take_left]

/-- The types of R84. -/
theorem frameType_iff (type : Byte) :
    type = 0x01#8 ∨ type = 0x02#8 ∨ type = 0x03#8 ∨ type = 0x04#8 ↔ 1 ≤ type.toNat ∧ type.toNat ≤ 4 := by
  bv_omega

/-- A frame body of a type of R84 passes steps 1 to 4 of `FRAME_CHECK`; what is left is step 5 (R116). -/
theorem decodeFrame_frameBody {type : Byte} (ht : 1 ≤ type.toNat ∧ type.toNat ≤ 4) (seq ack : Byte) {p : List Byte}
    (h : p.length ≤ 65535) :
    decodeFrame (frameBody type seq ack p) =
      if type = 0x01#8 then .ok (.data seq ack p)
      else if type = 0x04#8 then
        if p.length ≠ 3 then .error .lctrlLength
        else if seq.getLsbD 1 then
          .ok (.lctrlFin (seq.getLsbD 0) (word16 (byteAt p 0) (byteAt p 1)) (byteAt p 2))
        else .ok (.lctrl (seq.getLsbD 0) (word16 (byteAt p 0) (byteAt p 1)) (byteAt p 2))
      else if p.length ≠ 0 then .error .ackNackPayload
      else if type = 0x02#8 then .ok (.ack ack)
      else .ok (.nack ack) := by
  have hcrc : ¬ crc16 ((frameBody type seq ack p).take (p.length + 7 - 2)) ≠
      word16 (byteAt (frameBody type seq ack p) (p.length + 7 - 1))
        (byteAt (frameBody type seq ack p) (p.length + 7 - 2)) :=
    not_not.mpr ((congrArg crc16 (take_frameBody type seq ack p)).trans (fcs_frameBody type seq ack p).symm)
  have h0 : byteAt (frameBody type seq ack p) 0 = type := rfl
  have h1 : byteAt (frameBody type seq ack p) 1 = seq := rfl
  have h2 : byteAt (frameBody type seq ack p) 2 = ack := rfl
  unfold decodeFrame
  dsimp only
  rw [length_frameBody, if_neg (by omega), if_neg hcrc, len_frameBody type seq ack h, payload_frameBody, h0, h1, h2,
    if_neg (not_not.mpr ((frameType_iff type).mpr ht)), if_neg (by omega)]

theorem decodeFrame_data (seq ack : Byte) {p : List Byte} (h : p.length ≤ 65535) :
    decodeFrame (frameBody 0x01 seq ack p) = .ok (.data seq ack p) := by
  rw [decodeFrame_frameBody (by decide) seq ack h]
  rfl

/-- `SEQ` of an ACK frame is ignored (R86). -/
theorem decodeFrame_ack (seq ack : Byte) : decodeFrame (frameBody 0x02 seq ack []) = .ok (.ack ack) := by
  rw [decodeFrame_frameBody (by decide) seq ack (by simp)]
  rfl

/-- `SEQ` of a NACK frame is ignored (R86). -/
theorem decodeFrame_nack (seq ack : Byte) : decodeFrame (frameBody 0x03 seq ack []) = .ok (.nack ack) := by
  rw [decodeFrame_frameBody (by decide) seq ack (by simp)]
  rfl

/-- Of an LCTRL frame's header only the two flags are read (R85, R86). -/
theorem decodeFrame_lctrl (seq ack : Byte) (pkt : BitVec 16) (win : Byte) :
    decodeFrame (frameBody 0x04 seq ack (lctrlPayload pkt win)) =
      .ok (if seq.getLsbD 1 then .lctrlFin (seq.getLsbD 0) pkt win else .lctrl (seq.getLsbD 0) pkt win) := by
  have hlen : (lctrlPayload pkt win).length = 3 := rfl
  have hpkt : word16 (byteAt (lctrlPayload pkt win) 0) (byteAt (lctrlPayload pkt win) 1) = pkt := word16_extract pkt
  have hwin : byteAt (lctrlPayload pkt win) 2 = win := rfl
  rw [decodeFrame_frameBody (by decide) seq ack (by omega), if_neg (by decide), if_pos (by decide),
    if_neg (not_not.mpr hlen), hpkt, hwin]
  split <;> rfl

/-- The flag bits `RSP` and `FIN` of an LCTRL frame (R85). -/
theorem lctrlFlags_bits (fin rsp : Bool) :
    (lctrlFlags fin rsp).getLsbD 0 = rsp ∧ (lctrlFlags fin rsp).getLsbD 1 = fin := by
  revert fin rsp
  decide

/-! ### The encoding and the decoder (R82 to R97) -/

theorem pushLength_of_wellFormed {buf : List Byte} (h : (Instr.push buf).wellFormed = true) : buf.length ≤ 65535 := by
  simpa [Instr.wellFormed, Instr.illFormed] using h

theorem payloadLength_of_wellFormed {seq ack : Seq} {p : List Byte} (h : (Instr.data seq ack p).wellFormed = true) :
    p.length ≤ 65535 := by
  simpa [Instr.wellFormed, Instr.illFormed] using h

/-- Settles O1: per operation, the decoder reads each field where the encoding puts it. -/
theorem decodeInvertsEncode : Obligations.DecodeInvertsEncode := by
  intro i hi
  cases i with
  | nop => rw [encode, decode_portT, decodePortT_nop (opcOf_cmdWord _ _ _)]
  | start => rw [encode, decode_portT, decodePortT_start (opcOf_cmdWord _ _ _)]
  | close => rw [encode, decode_portT, decodePortT_close (opcOf_cmdWord _ _ _)]
  | schedLctrl => rw [encode, decode_portT, decodePortT_schedLctrl (opcOf_cmdWord _ _ _)]
  | push buf => exact decode_encode_push (pushLength_of_wellFormed hi)
  | pull n timeout =>
    rw [encode, decode_portR, decodePortR_pull (opcOf_cmdWord _ _ _), arg16Of_cmdWord, arg32Of_cmdWord]
  | rdcsr idx => rw [encode, decode_portT, decodePortT_rdcsr (opcOf_cmdWord _ _ _), idxOf_cmdWord]
  | wrcsr idx v => rw [encode, decode_portT, decodePortT_wrcsr (opcOf_cmdWord _ _ _), idxOf_cmdWord, arg32Of_cmdWord]
  | data seq ack p => exact decodeFrame_data seq ack (payloadLength_of_wellFormed hi)
  | ack a => exact decodeFrame_ack 0 a
  | nack a => exact decodeFrame_nack 0 a
  | lctrl rsp pkt win =>
    obtain ⟨hrsp, hfin⟩ := lctrlFlags_bits false rsp
    simp only [encode, decode, decodeFrame_lctrl, hrsp, hfin, Bool.false_eq_true, if_false]
  | lctrlFin rsp pkt win =>
    obtain ⟨hrsp, hfin⟩ := lctrlFlags_bits true rsp
    simp only [encode, decode, decodeFrame_lctrl, hrsp, hfin, if_true]

/-- What an operation encodes to decodes to it. -/
theorem decode_of_encode {i : Instr} {e : Encoded} (he : encode i = e) (hi : i.wellFormed = true) :
    decode e = .ok i :=
  he ▸ decodeInvertsEncode i hi

/-- Settles O2: but for the first word, whose ignored fields are not 0, each is the encoding of its operation, with the
integrity check computed by R111's loop. -/
theorem writtenOutWordsDecode : Obligations.WrittenOutWordsDecode := by
  refine ⟨(decode_portT _ _).trans (decodePortT_nop rfl), decode_of_encode rfl rfl, decode_of_encode rfl rfl,
    decode_of_encode rfl rfl, decode_of_encode rfl rfl, decode_of_encode rfl rfl, ?_, ?_, ?_, ?_, ?_⟩ <;>
    exact decode_of_encode (by
      simp [encode, frameBody, frameHead, be16, le16, crc16, crcByte, crcBit, lctrlFlags, lctrlPayload]) rfl

/-- The decoder of both ports reads a word through its fields `OPC`, `ARG16` and `ARG32` only (R95). -/
theorem decodePort_congr {w w' : Word64} (hopc : opcOf w = opcOf w') (h16 : arg16Of w = arg16Of w')
    (h32 : arg32Of w = arg32Of w') (d : List Byte) :
    decodePortT w d = decodePortT w' d ∧ decodePortR w = decodePortR w' := by
  have hidx : idxOf w = idxOf w' := by rw [idxOf_eq, idxOf_eq, h16]
  simp only [decodePortT, decodePortR, hopc, h16, h32, hidx, and_self]

/-- Opcodes 0x00 to 0x03 have no operand (R97). -/
theorem decodePortT_noOperand {w w' : Word64} (hopc : opcOf w = opcOf w') (h : (opcOf w).toNat < 4) (d : List Byte) :
    decodePortT w d = decodePortT w' d := by
  have hcases : opcOf w = 0#8 ∨ opcOf w = 1#8 ∨ opcOf w = 2#8 ∨ opcOf w = 3#8 := by bv_omega
  rcases hcases with h | h | h | h
  · rw [decodePortT_nop h, decodePortT_nop (hopc ▸ h)]
  · rw [decodePortT_start h, decodePortT_start (hopc ▸ h)]
  · rw [decodePortT_close h, decodePortT_close (hopc ▸ h)]
  · rw [decodePortT_schedLctrl h, decodePortT_schedLctrl (hopc ▸ h)]

/-- Settles O3: what each opcode and each frame type decodes to names the fields that are read. -/
theorem ignoredFieldsAreIgnored : Obligations.IgnoredFieldsAreIgnored := by
  refine ⟨fun w w' d hopc h16 h32 => decodePort_congr hopc h16 h32 d,
    fun w w' d hopc h => decodePortT_noOperand hopc h d, fun w w' d h h' h16 => ?_, fun w w' d h h' hidx => ?_,
    fun w w' d h h' hidx h32 => ?_, decodeFrame_ack, decodeFrame_nack, decodeFrame_lctrl⟩
  · rw [decodePortT_push h, decodePortT_push h', h16]
  · rw [decodePortT_rdcsr h, decodePortT_rdcsr h', hidx]
  · rw [decodePortT_wrcsr h, decodePortT_wrcsr h', hidx, h32]

/-! ### Byte stuffing (R92, R112) -/

theorem stuff_cons (b : Byte) (l : List Byte) : stuff (b :: l) = stuffByte b ++ stuff l := List.flatMap_cons

theorem stuffByte_escaped {b : Byte} (h : b = flagByte ∨ b = escByte) : stuffByte b = [escByte, b ^^^ 0x20#8] :=
  if_pos h

theorem stuffByte_plain {b : Byte} (h : ¬ (b = flagByte ∨ b = escByte)) : stuffByte b = [b] := if_neg h

/-- What stands on the wire for a byte: an escape pair for the flag and for the escape byte, else the byte (R92). -/
theorem stuffByte_eq (b : Byte) :
    stuffByte b = if b = 0x7E#8 then [0x7D#8, 0x5E#8] else if b = 0x7D#8 then [0x7D#8, 0x5D#8] else [b] := by
  by_cases hflag : b = 0x7E#8
  · subst hflag
    rfl
  · by_cases hesc : b = 0x7D#8
    · subst hesc
      rfl
    · rw [if_neg hflag, if_neg hesc]
      exact stuffByte_plain (not_or.mpr ⟨hflag, hesc⟩)

theorem flagByte_notMem_stuffByte (b : Byte) : flagByte ∉ stuffByte b := by
  rw [stuffByte_eq]
  split
  · decide
  · next hflag =>
    split
    · decide
    · rw [List.mem_singleton]
      exact Ne.symm hflag

theorem flagByte_notMem_stuff (l : List Byte) : flagByte ∉ stuff l := by
  rw [stuff, List.mem_flatMap]
  rintro ⟨b, -, hb⟩
  exact flagByte_notMem_stuffByte b hb

theorem one_le_length_stuffByte (b : Byte) : 1 ≤ (stuffByte b).length := by
  by_cases h : b = flagByte ∨ b = escByte
  · simp [stuffByte_escaped h]
  · simp [stuffByte_plain h]

theorem length_le_length_stuff (l : List Byte) : l.length ≤ (stuff l).length := by
  induction l with
  | nil => exact Nat.zero_le _
  | cons b l ih =>
    have hb := one_le_length_stuffByte b
    rw [stuff_cons, List.length_append, List.length_cons]
    omega

/-- What stands for a byte can be told from the bytes behind it: an escape pair begins with a byte that is never
sent for itself, and its second byte tells the two pairs apart (R92). -/
theorem stuffByte_append_inj {b c : Byte} {l m : List Byte} (h : stuffByte b ++ l = stuffByte c ++ m) :
    b = c ∧ l = m := by
  by_cases hb : b = flagByte ∨ b = escByte <;> by_cases hc : c = flagByte ∨ c = escByte
  · rw [stuffByte_escaped hb, stuffByte_escaped hc] at h
    simp only [List.cons_append, List.nil_append, List.cons.injEq] at h
    obtain ⟨-, hx, hl⟩ := h
    exact ⟨(BitVec.xor_left_inj _).mp hx, hl⟩
  · rw [stuffByte_escaped hb, stuffByte_plain hc] at h
    exact absurd (Or.inr (List.head_eq_of_cons_eq h).symm) hc
  · rw [stuffByte_plain hb, stuffByte_escaped hc] at h
    exact absurd (Or.inr (List.head_eq_of_cons_eq h)) hb
  · rw [stuffByte_plain hb, stuffByte_plain hc] at h
    exact List.cons.inj h

theorem stuff_injective {l m : List Byte} (h : stuff l = stuff m) : l = m := by
  have hne : ∀ (b : Byte) (k : List Byte), stuff (b :: k) ≠ [] := by
    intro b k hnil
    have hlen := length_le_length_stuff (b :: k)
    simp [hnil] at hlen
  induction l generalizing m with
  | nil =>
    cases m with
    | nil => rfl
    | cons c m => exact absurd h.symm (hne c m)
  | cons b l ih =>
    cases m with
    | nil => exact absurd h (hne b l)
    | cons c m =>
      rw [stuff_cons, stuff_cons] at h
      obtain ⟨rfl, hlm⟩ := stuffByte_append_inj h
      rw [ih hlm]

/-- Settles O5: byte by byte, from what `stuffByte` makes of one byte. -/
theorem stuffingHidesFlags : Obligations.StuffingHidesFlags :=
  ⟨rfl, fun b l => by rw [stuff_cons, stuffByte_eq],
    fun l => ⟨flagByte_notMem_stuff l, length_le_length_stuff l, length_stuff_le l⟩, fun _ _ => stuff_injective⟩

/-! ### The receiver rebuilds the body (R113, R115, R119) -/

/-- The header of a frame body, `LEN` high byte first (R82, R87). -/
theorem frameHead_eq (type seq ack : Byte) (p : List Byte) :
    frameHead type seq ack p =
      [type, seq, ack, BitVec.ofNat 8 (p.length / 256), BitVec.ofNat 8 p.length] ++ p := by
  have hhi : (BitVec.ofNat 16 p.length).extractLsb' 8 8 = BitVec.ofNat 8 (p.length / 256) := by
    apply BitVec.eq_of_toNat_eq
    simp only [BitVec.extractLsb'_toNat, BitVec.toNat_ofNat, Nat.shiftRight_eq_div_pow]
    omega
  have hlo : (BitVec.ofNat 16 p.length).extractLsb' 0 8 = BitVec.ofNat 8 p.length := by
    apply BitVec.eq_of_toNat_eq
    simp only [BitVec.extractLsb'_toNat, BitVec.toNat_ofNat, Nat.shiftRight_zero]
    omega
  rw [frameHead, be16, hhi, hlo]
  rfl

section
variable {s : State} (hrxs : s.rxs = .inframe)
include hrxs

/-- An escape byte is remembered (R115). -/
theorem rxDecodeByte_escape (hesc : s.rxEsc = false) : rxDecodeByte s escByte = { s with rxEsc := true } := by
  simp [rxDecodeByte, hrxs, hesc]

/-- Any other byte, and a byte behind an escape byte, is appended, un-escaped, while there is room (R115). -/
theorem rxDecodeByte_append {b : Byte} (hb : s.rxEsc = true ∨ b ≠ escByte) (hroom : s.rxlen < s.build.rxCap) :
    rxDecodeByte s b = { s with
      rxEsc := false, rxbuf := s.rxbuf.write s.rxlen (if s.rxEsc then b ^^^ 0x20#8 else b), rxlen := s.rxlen + 1 } := by
  have hplain : ¬ (s.rxEsc = false ∧ b = escByte) := by
    rintro ⟨he, rfl⟩
    simp [he] at hb
  unfold rxDecodeByte
  dsimp only
  rw [if_neg (by simp [hrxs]), if_neg hplain, if_neg (by omega)]

/-- What `STUFF` puts on the wire for a byte appends that byte (R92, R115). -/
theorem foldl_rxDecodeByte_stuffByte (hesc : s.rxEsc = false) (hroom : s.rxlen < s.build.rxCap) (b : Byte) :
    (stuffByte b).foldl rxDecodeByte s
      = { s with rxEsc := false, rxbuf := s.rxbuf.write s.rxlen b, rxlen := s.rxlen + 1 } := by
  by_cases hb : b = flagByte ∨ b = escByte
  · rw [stuffByte_escaped hb, List.foldl_cons, List.foldl_cons, List.foldl_nil, rxDecodeByte_escape hrxs hesc,
      rxDecodeByte_append (s := { s with rxEsc := true }) hrxs (.inl rfl) hroom]
    simp
  · rw [stuffByte_plain hb, List.foldl_cons, List.foldl_nil,
      rxDecodeByte_append hrxs (.inr fun h => hb (.inr h)) hroom]
    simp [hesc]

end

/-- A stuffed run of bytes, fed to a decoder inside a frame with room for it, is appended to `RXBUF` (R112, R115). -/
theorem foldl_rxDecodeByte_stuff {s : State} (hrxs : s.rxs = .inframe) (hesc : s.rxEsc = false) {l : List Byte}
    (hroom : s.rxlen + l.length ≤ s.build.rxCap) :
    (stuff l).foldl rxDecodeByte s
      = { s with rxEsc := false, rxbuf := s.rxbuf.writeRun s.rxlen l, rxlen := s.rxlen + l.length } := by
  induction l generalizing s with
  | nil =>
    rw [← hesc]
    rfl
  | cons b l ih =>
    rw [List.length_cons] at hroom
    rw [stuff_cons, List.foldl_append, foldl_rxDecodeByte_stuffByte hrxs hesc (by omega) b,
      ih (s := { s with rxEsc := false, rxbuf := s.rxbuf.write s.rxlen b, rxlen := s.rxlen + 1 }) hrxs rfl
        (by simp only; omega)]
    simp only [Memory.writeRun, List.length_cons, Nat.add_comm l.length 1, Nat.add_assoc]

/-- The decoder a flag has opened rebuilds what was stuffed, if it fits (R115, R119). -/
theorem foldl_rxDecodeByte_openFrame (s : State) {l : List Byte} (hroom : l.length ≤ s.build.rxCap) :
    (stuff l).foldl rxDecodeByte (openFrame s)
      = { openFrame s with rxbuf := s.rxbuf.writeRun 0 l, rxlen := l.length } := by
  have h := foldl_rxDecodeByte_stuff (s := openFrame s) rfl rfl (l := l) (by simpa [openFrame] using hroom)
  simpa [openFrame] using h

/-- A body that fails step 5 fails it by its length for its type (R116). -/
theorem decodeFrame_frameBody_error {type : Byte} (ht : 1 ≤ type.toNat ∧ type.toNat ≤ 4) {seq ack : Byte}
    {p : List Byte} (hp : p.length ≤ 65535) {r : DecodeReject}
    (h : decodeFrame (frameBody type seq ack p) = .error r) : r = .ackNackPayload ∨ r = .lctrlLength := by
  rw [decodeFrame_frameBody ht seq ack hp] at h
  repeat' split at h
  all_goals cases h
  · exact .inr rfl
  · exact .inl rfl

/-- Settles O6: the stuffed body leaves the body in `RXBUF`, and its fields are where the encoding put them. -/
theorem receiverRebuildsTheSentBody : Obligations.ReceiverRebuildsTheSentBody := by
  refine ⟨fun type seq ack p => ?_, fun s type seq ack p hb hlen ht => ?_⟩
  · rw [frameBody, frameHead_eq]
    rfl
  · have hroom : (frameBody type seq ack p).length ≤ s.build.rxCap := by
      rw [length_frameBody, Build.rxCap]
      omega
    have hp : p.length ≤ 65535 := hlen.trans (Build.ok_pMax hb).2
    have hfed := foldl_rxDecodeByte_openFrame s hroom
    refine ⟨stuff (frameBody type seq ack p), rfl, rfl, flagByte_notMem_stuff _, ?_, ?_, rfl, rfl, rfl,
      payload_frameBody type seq ack p, fun r => decodeFrame_frameBody_error ht hp⟩
    · rw [hfed]
      exact Memory.readRun_writeRun _ _ _
    · rw [hfed, length_frameBody]

/-! ### How a step takes the event offered (R210, R211) -/

section
variable {s : State} {rest : List Event}

theorem step_of_events {e : Event} (h : s.events = e :: rest) :
    step s = runFetched (beginStep s rest) (fetch e (beginStep s rest)) := by
  rw [step, h]

/-- An event whose condition is false is passed over (R210). -/
theorem step_of_notTaken {e : Event} (h : s.events = e :: rest) (hf : fetch e (beginStep s rest) = .notTaken) :
    step s = .next (beginStep s rest) := by
  rw [step_of_events h, hf]
  rfl

theorem step_of_command {e : Event} {i : Instr} {u v : State} (h : s.events = e :: rest)
    (hf : fetch e (beginStep s rest) = .command i v) (hx : exec i v = .next u) : step s = .next (closing u) := by
  rw [step_of_events h, hf, runFetched, hx]
  rfl

/-- A flag byte that is taken (R115, R216). -/
theorem step_of_flag (h : s.events = .rxByte flagByte :: rest) (he : s.rxEn = true) :
    step s = runFetched (beginStep s rest) (rxFlag { beginStep s rest with rxEn := false }) := by
  have hf : fetch (.rxByte flagByte) (beginStep s rest) = rxFlag { beginStep s rest with rxEn := false } := by
    have he' : (beginStep s rest).rxEn = true := he
    simp only [fetch, fetchRxByte, he', if_true]
  rw [step_of_events h, hf]

end

theorem fetch_cmdT_ok {w : Word64} {d : List Byte} {i : Instr} (s : State) (h : decodePortT w d = .ok i) :
    fetch (.cmdT w d) s = .command i s := by
  simp only [fetch, fetchPortT, h]

theorem fetch_cmdT_missingData {w : Word64} {d : List Byte} (s : State) (h : decodePortT w d = .error .missingData) :
    fetch (.cmdT w d) s = .notTaken := by
  simp only [fetch, fetchPortT, h]

theorem fetch_cmdR_pending {s : State} (w : Word64) (hp : s.pullPend = true) : fetch (.cmdR w) s = .notTaken := by
  simp only [fetch, fetchPortR, hp, if_true]

theorem fetch_cmdR_ok {w : Word64} {i : Instr} {s : State} (hp : s.pullPend = false) (h : decodePortR w = .ok i) :
    fetch (.cmdR w) s = .command i s := by
  simp only [fetch, fetchPortR, hp, h, Bool.false_eq_true, if_false]

theorem fetch_rxByte_off {s : State} (b : Byte) (he : s.rxEn = false) : fetch (.rxByte b) s = .notTaken := by
  simp only [fetch, he, Bool.false_eq_true, if_false]

theorem fetch_txByte_empty {s : State} (hb : s.txbuf = []) : fetch .txByte s = .notTaken := by
  simp only [fetch, hb]

/-- Settles O14: in each case the event comes to nothing. -/
theorem eventsNotTakenChangeNothing : Obligations.EventsNotTakenChangeNothing := by
  refine ⟨fun s h => by rw [step, h], fun s rest b h he => ?_, fun s rest h hb => ?_, fun s rest w h hp => ?_,
    fun s rest w d h hopc hlen => ?_⟩
  · exact step_of_notTaken h (fetch_rxByte_off b he)
  · exact step_of_notTaken h (fetch_txByte_empty hb)
  · exact step_of_notTaken h (fetch_cmdR_pending w hp)
  · exact step_of_notTaken h (fetch_cmdT_missingData _ (by rw [decodePortT_push hopc, if_pos hlen]))

/-! ### The flag byte (R115) -/

/-- The end of an `RX_BYTE` step written out: the decoder open, and the subscription renewed in a live phase (R115,
R219). -/
theorem finishFlag_eq (s : State) :
    finishFlag s = { s with
      rxs := .inframe, rxlen := 0, rxEsc := false,
      rxEn := if s.phase = .negotiating ∨ s.phase = .opened then true else s.rxEn } := by
  have hlive : (openFrame s).phase.live = true ↔ s.phase = .negotiating ∨ s.phase = .opened := Phase.live_iff s.phase
  rw [finishFlag, endRxByte, rxReenable]
  by_cases h : s.phase = .negotiating ∨ s.phase = .opened
  · rw [if_pos (hlive.mpr h), if_pos h]
    rfl
  · rw [if_neg (mt hlive.mp h), if_neg h]
    rfl

/-- Once the subscription is consumed, `finishFlag` renews it exactly in the live phases (R216, R219). -/
theorem finishFlag_of_consumed {s : State} (he : s.rxEn = false) :
    finishFlag s = { s with
      rxs := .inframe, rxlen := 0, rxEsc := false,
      rxEn := decide (s.phase = .negotiating ∨ s.phase = .opened) } := by
  have hen : (if s.phase = .negotiating ∨ s.phase = .opened then true else s.rxEn)
      = decide (s.phase = .negotiating ∨ s.phase = .opened) := by
    rw [he, Bool.if_true_left, Bool.or_false]
  rw [finishFlag_eq, hen]

/-- The decoder is inside a frame, with nothing received of it yet. -/
abbrev DecoderOpen (s : State) : Prop := s.rxs = .inframe ∧ s.rxlen = 0 ∧ s.rxEsc = false

theorem decoderOpen_closing_finishFlag (s : State) : DecoderOpen (closing (finishFlag s)) := by
  obtain ⟨_, _, _, _, _, _, _, _, _, _, _, _, h⟩ := closing_frame (finishFlag s)
  rw [h, finishFlag_frame]
  exact ⟨rfl, rfl, rfl⟩

theorem step_flag_decoderOpen {s t : State} {rest : List Event} (h : s.events = .rxByte flagByte :: rest)
    (he : s.rxEn = true) (ht : step s = .next t) : DecoderOpen t := by
  rw [step_of_flag h he] at ht
  rcases rxFlag_cases { beginStep s rest with rxEn := false } with ⟨i, hf, -⟩ | hf | ⟨c, hf⟩ <;>
    rw [hf, runFetched] at ht
  · obtain ⟨v, hv⟩ := exec_next i { beginStep s rest with rxEn := false }
    rw [hv, endReceived] at ht
    exact Host.Outcome.next.inj ht ▸ decoderOpen_closing_finishFlag v
  · exact Host.Outcome.next.inj ht ▸ decoderOpen_closing_finishFlag _
  · exact Host.Outcome.next.inj ht ▸ decoderOpen_closing_finishFlag _

/-- A flag in HUNT, or after an empty frame, only opens a frame (R115, corner cases 1 and 3). -/
theorem rxFlag_of_noFrame {s : State} (h : s.rxs = .hunt ∨ s.rxs = .inframe ∧ s.rxEsc = false ∧ s.rxlen = 0) :
    rxFlag s = .handled (finishFlag s) := by
  rcases h with h | ⟨h, hesc, hlen⟩
  · simp [rxFlag, h]
  · simp [rxFlag, h, hesc, hlen]

/-- Settles O12: every way a flag byte can be taken ends with `finishFlag`. -/
theorem flagAlwaysOpensAFrame : Obligations.FlagAlwaysOpensAFrame := by
  refine ⟨fun s t rest h he ht => step_flag_decoderOpen h he ht, fun s rest h he hrx => ?_⟩
  rw [step_of_flag h he, rxFlag_of_noFrame (s := { beginStep s rest with rxEn := false }) hrx, runFetched,
    finishFlag_of_consumed rfl]
  rfl

/-! ### The instruction of a step (R116, R210, R211) -/

theorem length_of_decodeFrame_ok {F : List Byte} {i : Instr} (h : decodeFrame F = .ok i) : 7 ≤ F.length := by
  by_contra hlen
  simp [decodeFrame, Nat.not_le.mp hlen] at h

theorem overLimit_eq_false_iff (s : State) (i : Instr) :
    overLimit s i = false ↔ ∀ seq ack p, i = .data seq ack p → p.length ≤ sizeLimit s := by
  cases i <;> simp [overLimit]

/-- A flag that completes a body `FRAME_CHECK` accepts (R115, R116). -/
theorem rxFlag_of_checked {s : State} {i : Instr} (hrxs : s.rxs = .inframe) (hesc : s.rxEsc = false)
    (hi : decodeFrame (rxBody s) = .ok i) (hwf : i.wellFormed = true) (hlim : overLimit s i = false) :
    rxFlag s = .received i s := by
  have hlen : 0 < s.rxlen := by
    have hbody := length_of_decodeFrame_ok hi
    rw [rxBody, Memory.readRun_length] at hbody
    omega
  have hcheck : frameCheck s (rxBody s) = .ok i := by simp [frameCheck, hi, hwf, hlim]
  simp [rxFlag, hrxs, hesc, hlen, hcheck]

/-- Settles O10: the event is fetched as its decoded instruction, on the state it is met in. -/
theorem stepRunsTheDecodedInstruction : Obligations.StepRunsTheDecodedInstruction := by
  refine ⟨fun s => rfl, fun s rest w d i u h hi hx => ?_, fun s rest w i u h hp hi hx => ?_,
    fun s rest i u h he hrxs hesc hi hwf hlim hx => ?_⟩
  · exact step_of_command h (fetch_cmdT_ok _ hi) hx
  · exact step_of_command h (fetch_cmdR_ok hp hi) hx
  · have hf : rxFlag { beginStep s rest with rxEn := false }
        = .received i { beginStep s rest with rxEn := false } :=
      rxFlag_of_checked hrxs hesc hi hwf ((overLimit_eq_false_iff _ i).mpr hlim)
    have hx' : exec i { beginStep s rest with rxEn := false } = .next u := hx
    rw [step_of_flag h he, hf, runFetched, hx', endReceived, finishFlag_eq]

/-! ### The response words (R96, R98) -/

/-- Field `RSV` of a word written from its fields is 0 (R95, R96). -/
theorem rsv_cmdWord (opc : Byte) (a : BitVec 16) (v : BitVec 32) : (cmdWord opc a v).extractLsb' 48 8 = 0#8 := by
  unfold cmdWord
  rw [BitVec.extractLsb'_append_eq_of_le (by omega), BitVec.extractLsb'_append_eq_of_le (by omega)]
  exact BitVec.extractLsb'_append_eq_right

/-- A response word has the layout of a command word: status, count and value stand for `OPC`, `ARG16` and `ARG32`. -/
theorem respT_word_eq (r : RespT) : r.word = cmdWord r.status.code r.count r.value := rfl

theorem respR_word_eq (r : RespR) : r.word = cmdWord r.status.code (BitVec.ofNat 16 r.bytes.length) 0 := rfl

theorem length_respBytes_pullCheck {s : State} (hq : respBytes s = []) : (respBytes (pullCheck s)).length ≤ 65535 := by
  have hmax : s.pullMax.toNat < 65536 := s.pullMax.isLt
  rcases pullCheck_cases s with h | ⟨-, -, h⟩ | ⟨-, -, ⟨-, h⟩ | ⟨-, h⟩ | ⟨-, -, -, h⟩⟩ <;> rw [h]
  · simp [hq]
  · have hbytes : respBytes (answerPull s .ok (min s.pullMax.toNat s.app.length))
        = s.app.take (min s.pullMax.toNat s.app.length) := rfl
    rw [hbytes, List.length_take]
    omega
  all_goals exact Nat.zero_le _

/-- Of the closing procedures only `PULL_CHECK` returns bytes, at most the pending `PULL`'s maximum (R157, R211). -/
theorem length_respBytes_closing {s : State} (hq : respBytes s = []) : (respBytes (closing s)).length ≤ 65535 := by
  have hq' : respBytes (drain s) = [] := by
    rw [drain_frame]
    exact hq
  have hout : respBytes (closing s) = respBytes (pullCheck (drain s)) := by
    rw [closing, txKick_frame, drain_frame]
    rfl
  rw [hout]
  exact length_respBytes_pullCheck hq'

theorem length_respBytes_step {s t : State} (hne : s.events ≠ []) (h : step s = .next t) :
    (respBytes t).length ≤ 65535 := by
  rcases step_inversion h with ⟨he, -⟩ | ⟨e, rest, -, rfl | ⟨-, rfl⟩ | ⟨u, hu, rfl⟩⟩
  · exact absurd he hne
  · exact Nat.zero_le _
  · exact Nat.zero_le _
  · exact length_respBytes_closing (hu.fifo rfl).2

/-- Settles O51: the fields are those of `cmdWord`, and a step returns bytes by `PULL_CHECK` only. -/
theorem responseWordsCarryTheResponse : Obligations.ResponseWordsCarryTheResponse := by
  refine ⟨⟨rfl, rfl, rfl, rfl, rfl, rfl, rfl⟩, fun r => ?_, fun r => ?_, fun s t r hne h hr => ?_⟩
  · rw [respT_word_eq]
    exact ⟨opcOf_cmdWord _ _ _, rsv_cmdWord _ _ _, arg16Of_cmdWord _ _ _, arg32Of_cmdWord _ _ _⟩
  · rw [respR_word_eq]
    refine ⟨opcOf_cmdWord _ _ _, rsv_cmdWord _ _ _, arg32Of_cmdWord _ _ _, fun hlen => ?_⟩
    have hcount := arg16Of_cmdWord r.status.code (BitVec.ofNat 16 r.bytes.length) 0
    rw [arg16Of] at hcount
    rw [hcount, BitVec.toNat_ofNat]
    omega
  · have hlen := length_respBytes_step hne h
    rwa [respBytes, hr] at hlen

end Sys2Proof.Machine

/-! SUPPORT. The statements of spec/40_framecodec.md: the integrity check, `FRAME_CHECK` against the body a sender
builds, `RX_DECODE` on a byte that is no flag, rejected frames; then the received frames that are dropped, answered
with an acknowledgment only, or retransmit one frame. -/

namespace Sys2Proof.Machine

/-! ### The integrity check (R111) -/

/-- A byte is eight shifts of the register it is added to (R111). -/
theorem crcByte_eq_iterate (c : BitVec 16) (b : Byte) : crcByte c b = crcBit^[8] (c ^^^ b.setWidth 16) := rfl

theorem crcBit_even {c : BitVec 16} (h : c.getLsbD 0 = false) : crcBit c = c >>> 1 := if_neg (by rw [h]; decide)

theorem crcBit_odd {c : BitVec 16} (h : c.getLsbD 0 = true) : crcBit c = (c >>> 1) ^^^ 0x8408#16 := if_pos h

/-- The shift of R111 is linear: of two fed-back polynomials the sum is none. -/
theorem crcBit_xor (c d : BitVec 16) : crcBit (c ^^^ d) = crcBit c ^^^ crcBit d := by
  have hbit : (c ^^^ d).getLsbD 0 = (c.getLsbD 0 ^^ d.getLsbD 0) := BitVec.getLsbD_xor
  have hshift : (c ^^^ d) >>> 1 = (c >>> 1) ^^^ (d >>> 1) := BitVec.ushiftRight_xor_distrib c d 1
  cases hc : c.getLsbD 0 <;> cases hd : d.getLsbD 0 <;> rw [hc, hd] at hbit
  · rw [crcBit_even hbit, crcBit_even hc, crcBit_even hd, hshift]
  · rw [crcBit_odd hbit, crcBit_even hc, crcBit_odd hd, hshift, BitVec.xor_assoc]
  · rw [crcBit_odd hbit, crcBit_odd hc, crcBit_even hd, hshift, BitVec.xor_assoc, BitVec.xor_assoc,
      BitVec.xor_comm (d >>> 1)]
  · rw [crcBit_even hbit, crcBit_odd hc, crcBit_odd hd, hshift, BitVec.xor_assoc, BitVec.xor_comm (0x8408#16),
      BitVec.xor_assoc, BitVec.xor_self, BitVec.xor_zero]

/-- Any number of shifts is linear. -/
theorem iterate_crcBit_xor (n : Nat) (c d : BitVec 16) :
    crcBit^[n] (c ^^^ d) = crcBit^[n] c ^^^ crcBit^[n] d := by
  induction n with
  | zero => rfl
  | succ n ih =>
    rw [Function.iterate_succ_apply', ih, crcBit_xor, ← Function.iterate_succ_apply' crcBit,
      ← Function.iterate_succ_apply' crcBit]

/-- Zeros at the bottom are shifted out. -/
theorem iterate_crcBit_of_low_zero {n : Nat} {c : BitVec 16} (h : ∀ k < n, c.getLsbD k = false) :
    crcBit^[n] c = c >>> n := by
  induction n with
  | zero => exact (BitVec.ushiftRight_zero c).symm
  | succ n ih =>
    have hbit : (c >>> n).getLsbD 0 = false := (BitVec.getLsbD_ushiftRight c n 0).trans (h n (Nat.lt_succ_self n))
    rw [Function.iterate_succ_apply', ih fun k hk => h k (Nat.lt_succ_of_lt hk), crcBit_even hbit,
      BitVec.shiftRight_add]

/-- Of eight shifts the high byte is only moved down: the low byte alone feeds the polynomial back. -/
theorem iterate_crcBit_eight (c : BitVec 16) : crcBit^[8] c = (c >>> 8) ^^^ crcBit^[8] (c &&& 0xFF#16) := by
  have hsplit : (c >>> 8 <<< 8) ^^^ (c &&& 0xFF#16) = c := by
    ext k hk
    interval_cases k <;> simp
  have hlow : ∀ k < 8, (c >>> 8 <<< 8).getLsbD k = false := fun k hk => by simp [hk]
  have hhigh : c >>> 8 <<< 8 >>> 8 = c >>> 8 := by
    ext k hk
    interval_cases k <;> simp
  calc crcBit^[8] c = crcBit^[8] ((c >>> 8 <<< 8) ^^^ (c &&& 0xFF#16)) := by rw [hsplit]
    _ = (c >>> 8 <<< 8 >>> 8) ^^^ crcBit^[8] (c &&& 0xFF#16) := by
      rw [iterate_crcBit_xor, iterate_crcBit_of_low_zero hlow]
    _ = (c >>> 8) ^^^ crcBit^[8] (c &&& 0xFF#16) := by rw [hhigh]

/-- The two bytes of an inverted check value, low byte first, take the loop from that value's register to the residue,
whatever the register was. -/
theorem foldl_crcByte_inverted (c : BitVec 16) : (le16 (c ^^^ 0xFFFF#16)).foldl crcByte c = 0xF0B8#16 := by
  have hlow : crcByte c ((c ^^^ 0xFFFF#16).extractLsb' 0 8) = (c >>> 8) ^^^ crcBit^[8] 0xFF#16 := by
    have hmove : (c ^^^ ((c ^^^ 0xFFFF#16).extractLsb' 0 8).setWidth 16) >>> 8 = c >>> 8 := by
      ext k hk
      interval_cases k <;> simp
    have hfeed : (c ^^^ ((c ^^^ 0xFFFF#16).extractLsb' 0 8).setWidth 16) &&& 0xFF#16 = 0xFF#16 := by
      ext k hk
      interval_cases k <;> simp
    rw [crcByte_eq_iterate, iterate_crcBit_eight, hmove, hfeed]
  have hhigh : ((c ^^^ 0xFFFF#16).extractLsb' 8 8).setWidth 16 = (c >>> 8) ^^^ 0xFF#16 := by
    ext k hk
    interval_cases k <;> simp
  have hcancel : (c >>> 8) ^^^ crcBit^[8] 0xFF#16 ^^^ ((c >>> 8) ^^^ 0xFF#16) = crcBit^[8] 0xFF#16 ^^^ 0xFF#16 := by
    rw [BitVec.xor_comm (c >>> 8), BitVec.xor_assoc, ← BitVec.xor_assoc (c >>> 8), BitVec.xor_self, BitVec.zero_xor]
  rw [le16, List.foldl_cons, List.foldl_cons, List.foldl_nil, hlow, crcByte_eq_iterate, hhigh, hcancel]
  simp [crcBit]

/-- Settles O4: the loop is the definition's, the values are computed by it, and a body ends with the inverted register
of the bytes before it. -/
theorem crcCheckValuesAndResidue : Obligations.CrcCheckValuesAndResidue := by
  refine ⟨fun l => rfl, by simp [crc16, crcByte, crcBit], fun type seq ack p => ?_⟩
  rw [frameBody, List.foldl_append, crc16]
  exact foldl_crcByte_inverted _

/-! ### The body of a received frame (R82, R87, R88) -/

theorem word16_toNat (hi lo : Byte) : (word16 hi lo).toNat = 256 * hi.toNat + lo.toNat := by
  rw [word16, BitVec.toNat_append, ← Nat.shiftLeft_add_eq_or_of_lt lo.isLt, Nat.shiftLeft_eq]
  omega

theorem word16_eq_ofNat (hi lo : Byte) : word16 hi lo = BitVec.ofNat 16 (256 * hi.toNat + lo.toNat) := by
  rw [← word16_toNat, BitVec.ofNat_toNat, BitVec.setWidth_eq]

theorem eq_word16_iff (c : BitVec 16) (hi lo : Byte) : c = word16 hi lo ↔ c.toNat = lo.toNat + 256 * hi.toNat := by
  rw [← BitVec.toNat_inj, word16_toNat, Nat.add_comm]

theorem be16_word16 (hi lo : Byte) : be16 (word16 hi lo) = [hi, lo] := by
  have hhi : (word16 hi lo).extractLsb' 8 8 = hi := by
    rw [word16, BitVec.extractLsb'_append_eq_left]
  have hlo : (word16 hi lo).extractLsb' 0 8 = lo := BitVec.extractLsb'_append_eq_right
  rw [be16, hhi, hlo]

theorem le16_eq_reverse_be16 (v : BitVec 16) : le16 v = (be16 v).reverse := rfl

/-- The first five bytes of a body are its header (R82). -/
theorem take_five {F : List Byte} (h : 5 ≤ F.length) :
    F.take 5 = [byteAt F 0, byteAt F 1, byteAt F 2, byteAt F 3, byteAt F 4] := by
  match F, h with
  | _ :: _ :: _ :: _ :: _ :: _, _ => rfl

/-- The payload of an LCTRL frame (R91). -/
theorem take_three_drop_five {F : List Byte} (h : 8 ≤ F.length) :
    (F.drop 5).take 3 = [byteAt F 5, byteAt F 6, byteAt F 7] := by
  match F, h with
  | _ :: _ :: _ :: _ :: _ :: _ :: _ :: _ :: _, _ => rfl

/-- The last two bytes of a body are its integrity check (R82). -/
theorem drop_length_sub_two {F : List Byte} (h : 2 ≤ F.length) :
    F.drop (F.length - 2) = [byteAt F (F.length - 2), byteAt F (F.length - 1)] := by
  have hbyte : ∀ k (hk : k < F.length), byteAt F k = F[k] := fun k hk => List.getD_eq_getElem F 0#8 hk
  rw [hbyte _ (by omega), hbyte _ (by omega), List.drop_eq_getElem_cons (by omega),
    List.drop_eq_getElem_cons (by omega), List.drop_eq_nil_of_le (by omega)]
  simp only [show F.length - 2 + 1 = F.length - 1 by omega]

section
variable {F : List Byte}

theorem decodeFrame_tooShort (hn : F.length < 7) : decodeFrame F = .error .tooShort := if_pos hn

variable (hn : ¬ F.length < 7)
include hn

theorem decodeFrame_fcsMismatch
    (hfcs : crc16 (F.take (F.length - 2)) ≠ word16 (byteAt F (F.length - 1)) (byteAt F (F.length - 2))) :
    decodeFrame F = .error .fcsMismatch := by
  unfold decodeFrame
  dsimp only
  rw [if_neg hn, if_pos hfcs]

variable (hfcs : crc16 (F.take (F.length - 2)) = word16 (byteAt F (F.length - 1)) (byteAt F (F.length - 2)))
include hfcs

theorem decodeFrame_unknownType (htype : ¬ (1 ≤ (byteAt F 0).toNat ∧ (byteAt F 0).toNat ≤ 4)) :
    decodeFrame F = .error .unknownType := by
  unfold decodeFrame
  dsimp only
  rw [if_neg hn, if_neg (not_not.mpr hfcs), if_pos (mt (frameType_iff _).mp htype)]

theorem decodeFrame_lenMismatch (htype : 1 ≤ (byteAt F 0).toNat ∧ (byteAt F 0).toNat ≤ 4)
    (hlen : (word16 (byteAt F 3) (byteAt F 4)).toNat ≠ F.length - 7) : decodeFrame F = .error .lenMismatch := by
  unfold decodeFrame
  dsimp only
  rw [if_neg hn, if_neg (not_not.mpr hfcs), if_neg (not_not.mpr ((frameType_iff _).mpr htype)), if_pos hlen]

/-- A body whose integrity check and length are right is what a sender builds from its fields (R113). -/
theorem eq_frameBody_of_fcs (hlen : (word16 (byteAt F 3) (byteAt F 4)).toNat = F.length - 7) :
    F = frameBody (byteAt F 0) (byteAt F 1) (byteAt F 2) ((F.drop 5).take (F.length - 7)) := by
  have hp : ((F.drop 5).take (F.length - 7)).length = F.length - 7 := by
    rw [List.length_take, List.length_drop]
    omega
  have hhead : frameHead (byteAt F 0) (byteAt F 1) (byteAt F 2) ((F.drop 5).take (F.length - 7))
      = F.take (F.length - 2) := by
    have hn2 : F.length - 2 = 5 + (F.length - 7) := by omega
    rw [frameHead, hp, ← hlen, BitVec.ofNat_toNat, BitVec.setWidth_eq, be16_word16, hlen, hn2, List.take_add,
      take_five (by omega)]
    rfl
  rw [frameBody, hhead, hfcs, le16_eq_reverse_be16, be16_word16, List.reverse_cons, List.reverse_singleton,
    List.singleton_append, ← drop_length_sub_two (by omega), List.take_append_drop]

end

/-! ### `FRAME_CHECK` (R116) -/

theorem frameCheck_of_error {s : State} {F : List Byte} {r : DecodeReject} (h : decodeFrame F = .error r) :
    frameCheck s F = .error (rejectCounter r) := by
  rw [frameCheck, h]

theorem frameCheck_of_ok {s : State} {F : List Byte} {i : Instr} (h : decodeFrame F = .ok i) :
    frameCheck s F = if i.wellFormed = false then .error .format else if overLimit s i then .error .oversize
      else .ok i := by
  rw [frameCheck, h]

theorem wellFormed_lctrl_eq_false_iff (rsp : Bool) (pkt : BitVec 16) (win : Byte) :
    (Instr.lctrl rsp pkt win).wellFormed = false ↔ pkt = 0 ∨ win = 0 := by
  rw [Instr.wellFormed, Instr.illFormed]
  by_cases hpkt : pkt = 0
  · rw [if_pos hpkt]
    exact iff_of_true rfl (.inl hpkt)
  · rw [if_neg hpkt]
    by_cases hwin : win = 0
    · rw [if_pos hwin]
      exact iff_of_true rfl (.inr hwin)
    · rw [if_neg hwin]
      exact iff_of_false (by decide) (not_or.mpr ⟨hpkt, hwin⟩)

section
variable (s : State) (seq ack : Byte)

/-- A proposal of 0 is dropped unless the frame closes the stream (R116 step 5). -/
theorem frameCheck_lctrl (pkt : BitVec 16) (win : Byte) :
    frameCheck s (frameBody 4#8 seq ack (lctrlPayload pkt win)) =
      if seq.getLsbD 1 = false ∧ (pkt = 0 ∨ win = 0) then .error .format
      else if seq.getLsbD 1 then .ok (.lctrlFin (seq.getLsbD 0) pkt win)
      else .ok (.lctrl (seq.getLsbD 0) pkt win) := by
  have hcheck : frameCheck s (frameBody 4#8 seq ack (lctrlPayload pkt win)) = _ :=
    frameCheck_of_ok (decodeFrame_lctrl seq ack pkt win)
  cases hfin : seq.getLsbD 1
  · simpa only [hfin, wellFormed_lctrl_eq_false_iff, overLimit, Bool.false_eq_true, if_false, true_and] using hcheck
  · rw [hcheck, hfin]
    rfl

theorem frameCheck_ack : frameCheck s (frameBody 2#8 seq ack []) = .ok (.ack ack) :=
  frameCheck_of_ok (decodeFrame_ack seq ack)

theorem frameCheck_nack : frameCheck s (frameBody 3#8 seq ack []) = .ok (.nack ack) :=
  frameCheck_of_ok (decodeFrame_nack seq ack)

variable {p : List Byte} (hp : p.length ≤ 65535)
include hp

/-- The size limit is on DATA frames only (R116 step 6). -/
theorem frameCheck_data : frameCheck s (frameBody 1#8 seq ack p) =
    if sizeLimit s < p.length then .error .oversize else .ok (.data seq ack p) := by
  have hwf : (Instr.data seq ack p).wellFormed = true := by
    rw [Instr.wellFormed, Instr.illFormed, if_neg (by omega)]
    rfl
  have hcheck : frameCheck s (frameBody 1#8 seq ack p) = _ := frameCheck_of_ok (decodeFrame_data seq ack hp)
  simpa only [hwf, Bool.true_eq_false, if_false, overLimit, decide_eq_true_eq] using hcheck

/-- Step 5 for the types whose payload has one length (R116). -/
theorem frameCheck_payloadLength {type : Byte}
    (h : (type = 2#8 ∨ type = 3#8) ∧ p.length ≠ 0 ∨ type = 4#8 ∧ p.length ≠ 3) :
    frameCheck s (frameBody type seq ack p) = .error .format := by
  rcases h with ⟨rfl | rfl, h⟩ | ⟨rfl, h⟩
  · exact frameCheck_of_error ((decodeFrame_frameBody (type := 2) (by decide) seq ack hp).trans (if_pos h))
  · exact frameCheck_of_error ((decodeFrame_frameBody (type := 3) (by decide) seq ack hp).trans (if_pos h))
  · exact frameCheck_of_error ((decodeFrame_frameBody (type := 4) (by decide) seq ack hp).trans (if_pos h))

/-- Steps 5 and 6, for a body that is one a sender builds; `pkt` and `win` are the proposal of an LCTRL frame (R116). -/
theorem frameCheck_frameBody {type win : Byte} {pkt : BitVec 16} (htype : 1 ≤ type.toNat ∧ type.toNat ≤ 4)
    (hlctrl : p.length = 3 → p = lctrlPayload pkt win) :
    frameCheck s (frameBody type seq ack p) =
      if (type = 2#8 ∨ type = 3#8) ∧ p.length ≠ 0 then .error .format
      else if type = 4#8 ∧ p.length ≠ 3 then .error .format
      else if type = 4#8 ∧ seq.getLsbD 1 = false ∧ (pkt = 0 ∨ win = 0#8) then .error .format
      else if type = 1#8 ∧ sizeLimit s < p.length then .error .oversize
      else if type = 1#8 then .ok (.data seq ack p)
      else if type = 2#8 then .ok (.ack ack)
      else if type = 3#8 then .ok (.nack ack)
      else if seq.getLsbD 1 then .ok (.lctrlFin (seq.getLsbD 0) pkt win)
      else .ok (.lctrl (seq.getLsbD 0) pkt win) := by
  by_cases h : (type = 2#8 ∨ type = 3#8) ∧ p.length ≠ 0 ∨ type = 4#8 ∧ p.length ≠ 3
  · rw [frameCheck_payloadLength s seq ack hp h]
    split
    · rfl
    · next h' => rw [if_pos (h.resolve_left h')]
  obtain ⟨h0, h3⟩ := not_or.mp h
  rw [if_neg h0, if_neg h3]
  rcases (frameType_iff type).mpr htype with rfl | rfl | rfl | rfl
  · rw [frameCheck_data s seq ack hp]
    simp
  · obtain rfl : p = [] := by simpa using h0
    rw [frameCheck_ack]
    simp
  · obtain rfl : p = [] := by simpa using h0
    rw [frameCheck_nack]
    simp
  · rw [hlctrl (by simpa using h3), frameCheck_lctrl]
    simp

end

/-- Settles O8: `FRAME_CHECK` rejects in steps 1 to 4, or the body is the encoding of its fields. -/
theorem frameCheckInOrder : Obligations.FrameCheckInOrder := by
  intro s F n type seq L pkt win
  have hL : (word16 (byteAt F 3) (byteAt F 4)).toNat = L := word16_toNat _ _
  by_cases hn : n < 7
  · rw [if_pos hn, frameCheck_of_error (decodeFrame_tooShort hn)]
    rfl
  rw [if_neg hn]
  by_cases hfcs : crc16 (F.take (n - 2)) = word16 (byteAt F (n - 1)) (byteAt F (n - 2))
  swap
  · rw [if_pos (mt (eq_word16_iff _ _ _).mpr hfcs), frameCheck_of_error (decodeFrame_fcsMismatch hn hfcs)]
    rfl
  rw [if_neg (not_not.mpr ((eq_word16_iff _ _ _).mp hfcs))]
  by_cases htype : 1 ≤ type.toNat ∧ type.toNat ≤ 4
  swap
  · rw [if_pos (by omega), frameCheck_of_error (decodeFrame_unknownType hn hfcs htype)]
    rfl
  rw [if_neg (by omega)]
  by_cases hlen : L = n - 7
  swap
  · rw [if_pos hlen, frameCheck_of_error (decodeFrame_lenMismatch hn hfcs htype (hL ▸ hlen))]
    rfl
  rw [if_neg (not_not.mpr hlen)]
  have hF : F = frameBody type seq (byteAt F 2) ((F.drop 5).take (n - 7)) :=
    eq_frameBody_of_fcs hn hfcs (hL.trans hlen)
  have hp : ((F.drop 5).take L).length = L := by
    rw [List.length_take, List.length_drop]
    omega
  have hproposal : ((F.drop 5).take L).length = 3 →
      (F.drop 5).take L = lctrlPayload (word16 (byteAt F 5) (byteAt F 6)) win := by
    intro h3
    rw [hp] at h3
    rw [lctrlPayload, be16_word16, h3, take_three_drop_five (by omega)]
    rfl
  have hpkt : word16 (byteAt F 5) (byteAt F 6) = 0 ↔ pkt = 0 := by
    rw [← BitVec.toNat_inj, word16_toNat]
    rfl
  have hcheck := frameCheck_frameBody s seq (byteAt F 2) (by omega) htype hproposal
  have hvalue : word16 (byteAt F 5) (byteAt F 6) = BitVec.ofNat 16 pkt := word16_eq_ofNat _ _
  rw [hlen, ← hF, ← hlen, hp] at hcheck
  simp only [hpkt] at hcheck
  rwa [hvalue] at hcheck

/-! ### `DROP` (R14, R118) -/

/-- Settles O9: each arm of `drop` writes its own counter, by `satInc`. -/
theorem dropCountsAndNothingElse : Obligations.DropCountsAndNothingElse :=
  fun _ => ⟨rfl, rfl, rfl, rfl⟩

/-! ### A byte that is no flag (R115, R216) -/

/-- In HUNT a byte is discarded (R115). -/
theorem rxDecodeByte_hunt {s : State} (h : s.rxs = .hunt) (b : Byte) : rxDecodeByte s b = s := if_pos h

/-- A byte that is no escape byte, or stands behind one, is appended un-escaped, or the body is full and is dropped
(R115). -/
theorem rxDecodeByte_store {s : State} {b : Byte} (h : s.rxs = .inframe) (hb : s.rxEsc = true ∨ b ≠ escByte) :
    rxDecodeByte s b =
      if s.rxlen = s.build.pMax + 7 then { drop s .oversize with rxs := .hunt, rxlen := 0, rxEsc := false }
      else { s with
        rxEsc := false, rxbuf := s.rxbuf.write s.rxlen (if s.rxEsc then b ^^^ 0x20#8 else b),
        rxlen := s.rxlen + 1 } := by
  have hplain : ¬ (s.rxEsc = false ∧ b = escByte) := by
    rintro ⟨he, rfl⟩
    simp [he] at hb
  unfold rxDecodeByte
  dsimp only
  rw [if_neg (by simp [h]), if_neg hplain]
  rfl

/-- The step that takes a byte that is no flag (R216). -/
theorem step_of_plainByte {s : State} {rest : List Event} {b : Byte} (h : s.events = .rxByte b :: rest)
    (he : s.rxEn = true) (hb : b ≠ flagByte) :
    step s = .next (closing (endRxByte (rxDecodeByte { beginStep s rest with rxEn := false } b))) := by
  have hf : fetch (.rxByte b) (beginStep s rest)
      = .handled (endRxByte (rxDecodeByte { beginStep s rest with rxEn := false } b)) := by
    have he' : (beginStep s rest).rxEn = true := he
    simp only [fetch, fetchRxByte, he', hb, if_true, if_false]
  rw [step_of_events h, hf, runFetched]

/-- Once the subscription is consumed, it is renewed exactly in the live phases, which the decoder does not leave (R216,
R219). -/
theorem endRxByte_rxDecodeByte_of_consumed {s : State} (he : s.rxEn = false) (b : Byte) :
    endRxByte (rxDecodeByte s b)
      = { rxDecodeByte s b with rxEn := decide (s.phase = .negotiating ∨ s.phase = .opened) } := by
  have hrxEn : (rxDecodeByte s b).rxEn = false := by rw [rxDecodeByte_frame, he]
  have hphase : (rxDecodeByte s b).phase = s.phase := by rw [rxDecodeByte_frame]
  rw [endRxByte, rxReenable, ← hphase]
  by_cases h : (rxDecodeByte s b).phase = .negotiating ∨ (rxDecodeByte s b).phase = .opened
  · rw [if_pos ((Phase.live_iff _).mpr h), decide_eq_true h]
  · rw [if_neg (mt (Phase.live_iff _).mp h), decide_eq_false h, ← hrxEn]

/-- A byte that has been written to `RXBUF` is handed on as it was written (R49). -/
theorem byteAt_rxBody {s : State} {o : Nat} (ho : o < s.rxlen) {b : Byte} (hb : s.rxbuf.read o = some b) :
    byteAt (rxBody s) o = b := by
  have hlen : o < (rxBody s).length := by rwa [rxBody, Memory.readRun_length]
  rw [byteAt, List.getD_eq_getElem _ _ hlen]
  simp [rxBody, Memory.readRun, hb]

/-- Settles O7: the cases of `RX_DECODE`, and the end of `RX_BYTE` after it. -/
theorem decoderTakesBytesOneByOne : Obligations.DecoderTakesBytesOneByOne := by
  refine ⟨fun s rest b h he hb => ?_, fun s b hb => ⟨fun h => rxDecodeByte_hunt h b, fun h hesc hb' => ?_,
    fun h hb' hroom => ?_, fun h hb' hfull => ?_⟩,
    fun s => ⟨Memory.readRun_length _ _ _, fun _ ho _ => byteAt_rxBody ho⟩⟩
  · have hstart : { s with events := rest, out := {}, rxEn := false } = { beginStep s rest with rxEn := false } := rfl
    rw [hstart, step_of_plainByte h he hb, endRxByte_rxDecodeByte_of_consumed rfl, beginStep_phase]
  · exact hb' ▸ rxDecodeByte_escape h hesc
  · exact ⟨_, (rxDecodeByte_store h hb').trans (if_neg hroom), Memory.read_write_same _ _ _,
      fun o ho => Memory.read_write_other _ _ ho⟩
  · exact (rxDecodeByte_store h hb').trans (if_pos hfull)

/-! ### Rejected frames (R115, R116, R118) -/

/-- A flag after an escape byte, or one that completes a body `FRAME_CHECK` rejects, counts one drop (R115,
R116). -/
theorem rxFlag_of_rejected {s : State} {c : DropCounter} (hrxs : s.rxs = .inframe)
    (h : s.rxEsc = true ∧ c = .format ∨ s.rxEsc = false ∧ 0 < s.rxlen ∧ frameCheck s (rxBody s) = .error c) :
    rxFlag s = .handled (finishFlag (drop s c)) := by
  rcases h with ⟨hesc, rfl⟩ | ⟨hesc, hlen, hcheck⟩
  · simp [rxFlag, hrxs, hesc]
  · simp [rxFlag, hrxs, hesc, hlen, hcheck]

/-- Settles O11: the drop, then the end of `RX_BYTE` after a flag. -/
theorem rejectedFramesAreOnlyCounted : Obligations.RejectedFramesAreOnlyCounted := by
  intro s rest c h he hrxs hrej
  have hf : rxFlag { beginStep s rest with rxEn := false }
      = .handled (finishFlag (drop { beginStep s rest with rxEn := false } c)) := rxFlag_of_rejected hrxs hrej
  rw [step_of_flag h he, hf, runFetched, finishFlag_of_consumed (drop_rxEn _ _)]
  cases c <;> rfl

/-! ### The dispatch of frames (R117) -/

theorem exec_data_of_opened {s : State} (hp : s.phase = .opened) (seq ack : Seq) (p : List Byte) :
    exec (.data seq ack p) s = .next (onFrame (onAck s ack) seq p) := if_pos hp

theorem exec_ack_of_opened {s : State} (hp : s.phase = .opened) (a : Seq) :
    exec (.ack a) s = .next (onAck s a) := if_pos hp

theorem exec_nack_of_opened {s : State} (hp : s.phase = .opened) (a : Seq) :
    exec (.nack a) s = .next (onNack s a) := if_pos hp

/-- Settles O31: the arms of `DISPATCH` outside phase OPEN. -/
theorem framesBeforeOpenAreDropped : Obligations.FramesBeforeOpenAreDropped :=
  fun _ _ _ _ hp => ⟨if_neg hp, if_neg hp, if_neg hp⟩

/-! ### DATA frames that are not accepted (R151) -/

/-- A duplicate: an acknowledgment is asked for unless one is already (R151). -/
theorem onFrame_behind {s : State} {seq : Seq} (p : List Byte) (hwin : s.effWin.toNat ≤ 128)
    (hd : 256 - s.effWin.toNat ≤ (seq - s.rcvExp).toNat) :
    onFrame s seq p = { s with ackReq := if s.ackReq = .none then .ack else s.ackReq } := by
  unfold onFrame
  dsimp only
  rw [if_neg (by omega), if_pos hd]
  split <;> rfl

/-- Neither new nor a duplicate: counted (R151). -/
theorem onFrame_outside {s : State} {seq : Seq} (p : List Byte) (hwin : s.effWin.toNat ≤ (seq - s.rcvExp).toNat)
    (hd : (seq - s.rcvExp).toNat < 256 - s.effWin.toNat) : onFrame s seq p = drop s .seq := by
  unfold onFrame
  dsimp only
  rw [if_neg (by omega), if_neg (by omega)]

/-- Settles O27: `ONACK` leaves the registers that `ONFRAME` tests, and the one it writes, as they were. -/
theorem dataOutsideTheWindow : Obligations.DataOutsideTheWindow := by
  intro s seq ack p hp hwin d
  have hframe := onAck_frame s ack
  have hw : (onAck s ack).effWin = s.effWin := by rw [hframe]
  have he : (onAck s ack).rcvExp = s.rcvExp := by rw [hframe]
  have ha : (onAck s ack).ackReq = s.ackReq := by rw [hframe]
  have hq : (onAck s ack).dropSeq = s.dropSeq := by rw [hframe]
  rw [exec_data_of_opened hp]
  refine ⟨fun hd => ?_, fun hd hd' => ?_⟩
  · rw [onFrame_behind p (by rwa [hw]) (by rwa [hw, he]), ha]
  · rw [onFrame_outside p (by rwa [hw, he]) (by rwa [hw, he]), ← hq]
    rfl

/-! ### NACK frames (R134) -/

/-- The number is the one before the oldest outstanding frame, and that frame is sent, unacknowledged, and has not been
fast-retransmitted since its timer was armed (R134). -/
abbrev AsksAgain (s : State) (a : Seq) : Prop :=
  0 < nOut s ∧ a + 1 = s.sndUna ∧ (swAt s (slotIndex s s.sndUna)).st = .ackPending ∧
    (swAt s (slotIndex s s.sndUna)).fastrx = false

/-- `ONNACK` is `ONACK`, and then one slot changed or none (R134). -/
theorem onNack_eq (s : State) (a : Seq) :
    onNack s a = if AsksAgain (onAck s a) a then
      modifySw (onAck s a) (slotIndex (onAck s a) (onAck s a).sndUna) fun slot =>
        { slot with st := .sent, txreq := true, fastrx := true, ts := (onAck s a).now }
    else onAck s a := by
  unfold onNack fastRetransmit
  dsimp only
  by_cases hold : 0 < nOut (onAck s a) ∧ a + 1 = (onAck s a).sndUna
  · simp only [AsksAgain, hold, true_and, and_true, if_true]
  · rw [if_neg hold, if_neg fun ⟨hout, hprev, _⟩ => hold ⟨hout, hprev⟩]

/-- Settles O26: `ONACK` keeps the file, so the slot of the oldest frame is inside it. -/
theorem nackRetransmitsOnce : Obligations.NackRetransmitsOnce := by
  intro s a hp hpar _ hw
  refine ⟨onAck s a, exec_ack_of_opened hp a, ?_⟩
  intro i again
  obtain ⟨hlen, -⟩ := senderWindow_onAck hpar hw a
  obtain ⟨hb, -⟩ := hpar
  have hi : i < (onAck s a).sw.length := by
    rw [hlen]
    exact slotIndex_lt (by rw [onAck_frame]; exact hb) _
  have hnow : (onAck s a).now = s.now := by rw [onAck_frame]
  rw [exec_nack_of_opened hp, onNack_eq]
  refine ⟨fun h => by rw [if_neg h], fun h => ⟨_, by rw [if_pos h]; rfl, ?_, fun j hj => ?_⟩⟩
  · rw [getD_modify _ _ _ _ _ hi, if_pos rfl, hnow]
    rfl
  · rw [getD_modify _ _ _ _ _ hi, if_neg hj]
    rfl

end Sys2Proof.Machine

/-! SUPPORT. The statements of spec/41_windowsender.md about the retransmission timers: `ONTIMEOUT` on one slot, then
`SENDER_TICK` as one change of the outstanding slots, oldest first, up to the frame that kills the stream. -/

namespace Sys2Proof.Machine

/-! ### `ONTIMEOUT` on one slot (R135) -/

/-- A frame that is queued again, with one more retry and its timer re-armed with back-off (R135). -/
def requeued (s : State) (w : SwSlot) : SwSlot :=
  { w with
    retry := w.retry + 1, st := .sent, txreq := true, ts := s.now, deadline := rtoDeadline s (w.retry.toNat + 1),
    fastrx := false }

theorem ofNat_toNat_add_one (x : Byte) : BitVec.ofNat 8 (x.toNat + 1) = x + 1 := by
  rw [BitVec.ofNat_add, BitVec.ofNat_toNat, BitVec.setWidth_eq]
  rfl

/-- A change of `SW[i]` counts only by what it makes of the slot that is there. -/
theorem modifySw_congr {s : State} {i : Nat} {f g : SwSlot → SwSlot} (h : f (swAt s i) = g (swAt s i)) :
    modifySw s i f = modifySw s i g := by
  have hsw : s.sw.modify i f = s.sw.modify i g := by
    refine List.ext_getElem (by simp) fun j hj _ => ?_
    rw [List.getElem_modify, List.getElem_modify]
    split
    · next hij =>
      subst hij
      rwa [swAt, List.getD_eq_getElem _ _ (by simpa using hj)] at h
    · rfl
  rw [modifySw, modifySw, hsw]

theorem modifySw_eq_self {s : State} {i : Nat} {f : SwSlot → SwSlot} (h : f (swAt s i) = swAt s i) :
    modifySw s i f = s := by
  rw [modifySw_congr (g := id) h, modifySw, List.modify_id]

theorem onTimeout_of_retryLeft {s : State} {i : Nat} (h : (swAt s i).retry.toNat < s.retryMax.toNat) :
    onTimeout s i = modifySw s i (requeued s) := by
  obtain ⟨hr, -⟩ | ⟨-, hr⟩ := onTimeout_cases s i
  · omega
  · rw [hr]
    exact modifySw_congr (by rw [ofNat_toNat_add_one]; rfl)

theorem onTimeout_of_exhausted {s : State} {i : Nat} (h : s.retryMax.toNat ≤ (swAt s i).retry.toNat) :
    onTimeout s i = fatal s .retryExhausted (swAt s i).seq := by
  obtain ⟨-, hr⟩ | ⟨hr, -⟩ := onTimeout_cases s i
  · exact hr
  · omega

/-- Settles O36: the two cases of `ONTIMEOUT`, and what the first leaves in each slot. -/
theorem timeoutRetransmitsOrKills : Obligations.TimeoutRetransmitsOrKills := by
  intro s i hi r
  refine ⟨fun h => ⟨_, onTimeout_of_retryLeft h, ?_, fun j hj => ?_⟩,
    fun h => onTimeout_of_exhausted (Nat.lt_succ_iff.mp h)⟩
  · rw [ofNat_toNat_add_one]
    exact (swAt_modifySw s i i _ hi).trans (if_pos rfl)
  · exact (swAt_modifySw s i j _ hi).trans (if_neg hj)

/-! ### The scan of the timers (R136) -/

theorem scanTimers_singleton (s : State) (k : Nat) :
    scanTimers s [k] =
      if (swAt s (outIndex s k)).deadline = s.now then onTimeout s (outIndex s k) else s := by
  simp [scanTimers]

/-- A scan that leaves the stream alive goes on with the later frames. -/
theorem scanTimers_append_of_alive {s : State} {ks : List Nat} (h : (scanTimers s ks).phase ≠ .dead)
    (ls : List Nat) : scanTimers s (ks ++ ls) = scanTimers (scanTimers s ks) ls := by
  induction ks generalizing s with
  | nil => rfl
  | cons k ks ih =>
    simp only [List.cons_append, scanTimers] at h ⊢
    split
    · next hdue =>
      rw [if_pos hdue] at h
      split
      · next hdead => exact absurd hdead (by rwa [if_pos hdead] at h)
      · next hlive => exact ih (by rwa [if_neg hlive] at h)
    · next hdue => exact ih (by rwa [if_neg hdue] at h)

/-- A scan that kills the stream leaves the later frames alone. -/
theorem scanTimers_append_of_dead {s : State} {ks : List Nat} (hs : s.phase ≠ .dead)
    (h : (scanTimers s ks).phase = .dead) (ls : List Nat) : scanTimers s (ks ++ ls) = scanTimers s ks := by
  induction ks generalizing s with
  | nil => exact absurd h hs
  | cons k ks ih =>
    simp only [List.cons_append, scanTimers] at h ⊢
    split
    · next hdue =>
      rw [if_pos hdue] at h
      split
      · rfl
      · next hlive => exact ih hlive (by rwa [if_neg hlive] at h)
    · next hdue => exact ih hs (by rwa [if_neg hdue] at h)

/-- What a scan makes of an outstanding frame with a retry left: it is queued again if it is due. -/
def requeuedIfDue (s : State) (w : SwSlot) : SwSlot := if w.deadline = s.now then requeued s w else w

theorem requeuedIfDue_of_due {s : State} {w : SwSlot} (h : w.deadline = s.now) : requeuedIfDue s w = requeued s w :=
  if_pos h

theorem requeuedIfDue_of_not_due {s : State} {w : SwSlot} (h : w.deadline ≠ s.now) : requeuedIfDue s w = w :=
  if_neg h

theorem scanTimers_singleton_of_retryLeft {s : State} {k : Nat}
    (h : (swAt s (outIndex s k)).deadline = s.now → (swAt s (outIndex s k)).retry.toNat < s.retryMax.toNat) :
    scanTimers s [k] = modifySw s (outIndex s k) (requeuedIfDue s) := by
  rw [scanTimers_singleton]
  split
  · next hdue =>
    rw [onTimeout_of_retryLeft (h hdue)]
    exact modifySw_congr (requeuedIfDue_of_due hdue).symm
  · next hdue => exact (modifySw_eq_self (requeuedIfDue_of_not_due hdue)).symm

theorem modifyOutstanding_succ (s : State) (n : Nat) (f : SwSlot → SwSlot) :
    modifyOutstanding s (n + 1) f = modifySw (modifyOutstanding s n f) (outIndex s n) f := by
  simp [modifyOutstanding, modifySw, List.range_succ]

theorem outIndex_modifyOutstanding (s : State) (n : Nat) (f : SwSlot → SwSlot) (k : Nat) :
    outIndex (modifyOutstanding s n f) k = outIndex s k := outIndex_congr rfl rfl k

/-- The scan comes to frame `n` with the slots before it changed. -/
theorem scanTimers_range_succ {s : State} (hp : s.phase = .opened) {n : Nat} {f : SwSlot → SwSlot}
    (hscan : scanTimers s (List.range n) = modifyOutstanding s n f) :
    scanTimers s (List.range (n + 1)) = scanTimers (modifyOutstanding s n f) [n] := by
  have halive : (scanTimers s (List.range n)).phase ≠ .dead := by
    rw [hscan, modifyOutstanding_phase, hp]
    decide
  rw [List.range_succ, scanTimers_append_of_alive halive, hscan]

section
variable {s : State} (hb : s.build.ok = true) (hlen : s.sw.length = s.build.wMax)
include hb hlen

theorem swAt_modifyOutstanding_of_lt {n m : Nat} (hn : n ≤ s.build.wMax) (hm : m < n) (f : SwSlot → SwSlot) :
    swAt (modifyOutstanding s n f) (outIndex s m) = f (swAt s (outIndex s m)) := by
  rw [swAt_modifyOutstanding hb hlen hn, if_pos ⟨m, hm, rfl⟩]

theorem swAt_modifyOutstanding_of_le {n m : Nat} (hnm : n ≤ m) (hm : m < s.build.wMax) (f : SwSlot → SwSlot) :
    swAt (modifyOutstanding s n f) (outIndex s m) = swAt s (outIndex s m) := by
  rw [swAt_modifyOutstanding hb hlen (by omega), if_neg]
  rintro ⟨l, hl, h⟩
  have := outIndex_inj hb (by omega) hm h
  omega

theorem swAt_modifyOutstanding_other {n i : Nat} (hn : n ≤ s.build.wMax) (hi : ∀ m < n, outIndex s m ≠ i)
    (f : SwSlot → SwSlot) : swAt (modifyOutstanding s n f) i = swAt s i := by
  rw [swAt_modifyOutstanding hb hlen hn, if_neg]
  rintro ⟨m, hm, h⟩
  exact hi m hm h

variable (hp : s.phase = .opened)
include hp

/-- While no due frame is out of retries, the scan is one change of the slots it has passed: each frame still has
its own slot when its turn comes. -/
theorem scanTimers_range {n : Nat} (hn : n ≤ s.build.wMax)
    (hretry : ∀ k < n, (swAt s (outIndex s k)).deadline = s.now →
      (swAt s (outIndex s k)).retry.toNat < s.retryMax.toNat) :
    scanTimers s (List.range n) = modifyOutstanding s n (requeuedIfDue s) := by
  induction n with
  | zero => rfl
  | succ n ih =>
    have hscan := ih (by omega) fun k hk => hretry k (by omega)
    have hslot := swAt_modifyOutstanding_of_le hb hlen le_rfl hn (requeuedIfDue s)
    rw [scanTimers_range_succ hp hscan, scanTimers_singleton_of_retryLeft, outIndex_modifyOutstanding,
      modifyOutstanding_succ]
    · rfl
    · rw [outIndex_modifyOutstanding, hslot]
      exact hretry n (Nat.lt_succ_self n)

/-- The oldest due frame that is out of retries ends the scan (R136). -/
theorem scanTimers_range_of_exhausted {k n : Nat} (hk : k < n) (hn : n ≤ s.build.wMax)
    (hdue : (swAt s (outIndex s k)).deadline = s.now)
    (hmax : s.retryMax.toNat ≤ (swAt s (outIndex s k)).retry.toNat)
    (hretry : ∀ m < k, (swAt s (outIndex s m)).deadline = s.now →
      (swAt s (outIndex s m)).retry.toNat < s.retryMax.toNat) :
    scanTimers s (List.range n)
      = fatal (modifyOutstanding s k (requeuedIfDue s)) .retryExhausted (swAt s (outIndex s k)).seq := by
  have hscan := scanTimers_range hb hlen hp (by omega) hretry
  have hslot := swAt_modifyOutstanding_of_le hb hlen le_rfl (hk.trans_le hn) (requeuedIfDue s)
  have hkill : scanTimers s (List.range (k + 1))
      = fatal (modifyOutstanding s k (requeuedIfDue s)) .retryExhausted (swAt s (outIndex s k)).seq := by
    rw [scanTimers_range_succ hp hscan, scanTimers_singleton, outIndex_modifyOutstanding, onTimeout_of_exhausted,
      hslot]
    · exact if_pos hdue
    · rwa [hslot]
  obtain ⟨d, rfl⟩ := Nat.exists_eq_add_of_le (Nat.succ_le_of_lt hk)
  rw [List.range_add, scanTimers_append_of_dead (by rw [hp]; decide) (by rw [hkill]; rfl), hkill]

end

/-! ### `SENDER_TICK` (R136) -/

theorem senderTick_of_opened {s : State} (h : s.phase = .opened) :
    senderTick s = scanTimers s (List.range (nOut s)) := if_pos h

/-- Settles O37: the scan passes every outstanding frame. -/
theorem dueFramesAreRetransmitted : Obligations.DueFramesAreRetransmitted := by
  intro s hp hpar _ ⟨hlen, hout, _⟩ hretry
  have hn : nOut s ≤ s.build.wMax := hout.trans (effWin_le_wMax hpar)
  obtain ⟨hb, -⟩ := hpar
  exact ⟨(modifyOutstanding s (nOut s) (requeuedIfDue s)).sw,
    (senderTick_of_opened hp).trans (scanTimers_range hb hlen hp hn hretry),
    fun k hk => swAt_modifyOutstanding_of_lt hb hlen hn hk _,
    fun i hi => swAt_modifyOutstanding_other hb hlen hn hi _⟩

/-- Settles O38: the scan stops at frame `k`, whose slot holds the number `SND_UNA + k` (R53 (2)). -/
theorem exhaustedRetriesKillTheStream : Obligations.ExhaustedRetriesKillTheStream := by
  intro s k hp hpar _ ⟨hlen, hout, hslots, _⟩ hk hdue hmax hretry
  have hn : nOut s ≤ s.build.wMax := hout.trans (effWin_le_wMax hpar)
  obtain ⟨hb, -⟩ := hpar
  obtain ⟨-, hseq, -⟩ := hslots k hk
  refine ⟨(modifyOutstanding s k (requeuedIfDue s)).sw, ?_,
    fun m hm => swAt_modifyOutstanding_of_lt hb hlen (by omega) hm _,
    fun m hkm hm => swAt_modifyOutstanding_of_le hb hlen hkm (by omega) _,
    fun i hi => swAt_modifyOutstanding_other hb hlen (by omega) (fun m hm => hi m (by omega)) _⟩
  rw [senderTick_of_opened hp, scanTimers_range_of_exhausted hb hlen hp hk hn hdue hmax hretry, hseq]
  rfl

end Sys2Proof.Machine

/-! SUPPORT. The statements of spec/42_reassembler.md: `PULL`, `PULL_CHECK` and the timers of `TICK`; then `DRAIN` as a
run of deliveries, one per frame that waits contiguously, and the DATA frames of the acceptance window, which wait in
their slot or are delivered. -/

namespace Sys2Proof.Machine

/-! ### `PULL` and `PULL_CHECK` (R156, R157) -/

/-- Settles O21: the two cases of `PULL`. -/
theorem pullArmsThePullRegisters : Obligations.PullArmsThePullRegisters := by
  intro s n timeout
  have hexec : exec (.pull n timeout) s = .next (pullCommand s n timeout) := rfl
  rw [hexec]
  rcases pullCommand_cases s n timeout with ⟨hn, h⟩ | ⟨hn, h⟩ <;> rw [h]
  · exact ⟨fun _ => rfl, fun h0 => absurd hn h0⟩
  · exact ⟨fun h0 => absurd h0 hn, fun _ => rfl⟩

theorem pullCheck_of_notPending {s : State} (hp : s.pullPend = false) : pullCheck s = s := if_pos hp

/-- Data wins over everything (R157). -/
theorem pullCheck_of_data {s : State} (hp : s.pullPend = true) (ha : s.app ≠ []) :
    pullCheck s = answerPull s .ok (min s.pullMax.toNat s.app.length) := by
  simp [pullCheck, hp, List.length_pos_iff.mpr ha]

/-- The tests that are left once `APP` is empty, in R157's order. -/
theorem pullCheck_of_empty {s : State} (hp : s.pullPend = true) (ha : s.app = []) :
    pullCheck s = if s.phase = .closed then answerPull s .closed 0
      else if s.phase = .dead then answerPull s .dead 0
      else if s.pullNowait then answerPull s .timeout 0 else s := by
  simp [pullCheck, hp, ha]

theorem answerPull_of_empty {s : State} (ha : s.app = []) (st : Status) :
    answerPull s st 0 = { s with out := { s.out with respR := some ⟨st, []⟩ }, pullPend := false } := by
  simp [answerPull, emitR, ha]

/-- Settles O22: the tests in their order, and the answer each of them gives. -/
theorem pullAnswersInOrder : Obligations.PullAnswersInOrder := by
  refine fun s => ⟨pullCheck_of_notPending, fun hp ha => ?_, fun hp ha hc => ?_, fun hp ha hd => ?_,
    fun hp ha hc hd hw => ?_, fun hp ha hc hd hw => ?_⟩
  · rw [pullCheck_of_data hp ha, answerPull, ← List.take_eq_take_min, ← List.drop_eq_drop_min]
    rfl
  · rw [pullCheck_of_empty hp ha, if_pos hc, answerPull_of_empty ha]
  · rw [pullCheck_of_empty hp ha, if_neg (by rw [hd]; decide), if_pos hd, answerPull_of_empty ha]
  · rw [pullCheck_of_empty hp ha, if_neg hc, if_neg hd, if_pos hw, answerPull_of_empty ha]
  · rw [pullCheck_of_empty hp ha, if_neg hc, if_neg hd, if_neg (by simp [hw])]

/-! ### `TICK` (R158, R172, R252) -/

theorem lctrlTick_of_due {s : State} (h : s.phase = .negotiating ∧ s.lctrlDeadline = s.now) :
    lctrlTick s = { s with lctrlReq := true, lctrlDeadline := s.now + s.lctrlPeriod } := if_pos h

theorem lctrlTick_of_not_due {s : State} (h : ¬ (s.phase = .negotiating ∧ s.lctrlDeadline = s.now)) :
    lctrlTick s = s := if_neg h

theorem step_of_tick {s : State} {rest : List Event} (h : s.events = .tick :: rest) :
    step s = .next (closing (onTick (beginStep s rest))) := step_of_events h

/-- Settles O39: the LCTRL timer acts in NEGOTIATING only (R172), the retransmission timers in OPEN only (R137). -/
theorem tickByPhase : Obligations.TickByPhase := by
  refine ⟨fun s => ⟨fun h => if_pos h, fun h => if_neg h⟩, fun s rest h => ?_⟩
  intro s0
  have hstep : step s = .next (closing (pullTick (senderTick (lctrlTick s0)))) := step_of_tick h
  have hlctrl : ¬ (s.phase = .negotiating ∧ s.lctrlDeadline = s.now + 1) → lctrlTick s0 = s0 :=
    fun hd => lctrlTick_of_not_due hd
  have hsend : s.phase ≠ .opened → senderTick (lctrlTick s0) = lctrlTick s0 := fun hp =>
    senderTick_gated (by rw [lctrlTick_frame]; exact hp)
  rw [hstep]
  refine ⟨fun hp => ?_, fun hp hd => ?_, fun hp hd => ?_, fun hp => ?_⟩
  · have hne : s.phase ≠ .opened ∧ s.phase ≠ .negotiating := by rcases hp with hp | hp | hp <;> simp [hp]
    rw [hsend hne.1, hlctrl fun hc => hne.2 hc.1]
  · rw [hsend (by simp [hp]), lctrlTick_of_due (s := s0) ⟨hp, hd⟩]
  · rw [hsend (by simp [hp]), hlctrl fun hc => hd hc.2]
  · rw [hlctrl (by simp [hp])]

/-! ### A run of deliveries (R153, R160) -/

/-- The slot index of the `m`-th frame from the expected one on: `((RCV_EXP + m) mod 256) mod W_MAX` (R45). -/
def expIndex (s : State) (m : Nat) : Nat := slotIndex s (s.rcvExp + BitVec.ofNat 8 m)

theorem expIndex_zero (s : State) : expIndex s 0 = slotIndex s s.rcvExp := by simp [expIndex]

theorem expIndex_lt {s : State} (hb : s.build.ok = true) (m : Nat) : expIndex s m < s.build.wMax := slotIndex_lt hb _

theorem expIndex_inj {s : State} (hb : s.build.ok = true) {k m : Nat} (hk : k < s.build.wMax) (hm : m < s.build.wMax)
    (h : expIndex s k = expIndex s m) : k = m := slotIndex_add_inj hb hk hm h

/-- A delivery leaves each slot as it was, or only marks it empty. -/
theorem rbAt_deliver_cases (s : State) (j : Nat) :
    rbAt (deliver s) j = rbAt s j ∨ rbAt (deliver s) j = { rbAt s j with valid := false } := by
  have h := getD_modify_cases s.rb (slotIndex s s.rcvExp) j (fun slot => { slot with valid := false }) {}
  rw [← deliver_rb] at h
  exact h.imp_right fun h => h.2.2

/-- A delivery leaves the bytes of every slot (R153). -/
theorem rbPayload_deliver (s : State) (j : Nat) : rbPayload (deliver s) j = rbPayload s j := by
  have he : (deliver s).epoch = s.epoch := by rw [deliver_frame]
  rcases rbAt_deliver_cases s j with h | h <;> rw [rbPayload, h, he, rbPayload]

/-- RXDATA is set unless the delivered frame has no byte (R153). -/
theorem deliver_irqStatus (s : State) : (deliver s).irqStatus =
    if rbPayload s (slotIndex s s.rcvExp) = [] then s.irqStatus else s.irqStatus ||| IrqFlag.rxData.bit := by
  have hlen : rbPayload s (slotIndex s s.rcvExp) = [] ↔ ¬ 0 < (rbAt s (slotIndex s s.rcvExp)).len.toNat := by
    rw [← List.length_eq_zero_iff, rbPayload_length]
    omega
  unfold deliver
  dsimp only
  split
  · next h => rw [if_neg (mt hlen.mp (not_not_intro h))]; rfl
  · next h => rw [if_pos (hlen.mpr h)]; rfl

/-- `n` deliveries write `APP`, `RB`, `RCV_EXP` and `IRQ_STATUS` only. -/
theorem iterate_deliver_frame (s : State) (n : Nat) :
    deliver^[n] s = { s with
      app := (deliver^[n] s).app, rb := (deliver^[n] s).rb, rcvExp := s.rcvExp + BitVec.ofNat 8 n,
      irqStatus := (deliver^[n] s).irqStatus } := by
  induction n with
  | zero => simp
  | succ n ih =>
    have hnext : s.rcvExp + BitVec.ofNat 8 (n + 1) = s.rcvExp + BitVec.ofNat 8 n + 1 := by
      rw [BitVec.ofNat_add, BitVec.add_assoc]
      rfl
    rw [Function.iterate_succ_apply', hnext]
    generalize deliver^[n] s = u at ih ⊢
    rw [deliver_frame, ih]

theorem slotIndex_iterate_deliver (s : State) (n : Nat) :
    slotIndex (deliver^[n] s) (deliver^[n] s).rcvExp = expIndex s n := by
  rw [iterate_deliver_frame]
  rfl

theorem rbPayload_iterate_deliver (s : State) (n j : Nat) : rbPayload (deliver^[n] s) j = rbPayload s j := by
  induction n with
  | zero => rfl
  | succ n ih => rw [Function.iterate_succ_apply', rbPayload_deliver, ih]

/-- A slot that still holds a frame has not been touched. -/
theorem rbAt_iterate_deliver_of_held {s : State} {n j : Nat} (h : (rbAt (deliver^[n] s) j).valid = true) :
    rbAt (deliver^[n] s) j = rbAt s j := by
  induction n with
  | zero => rfl
  | succ n ih =>
    rw [Function.iterate_succ_apply'] at h ⊢
    rcases rbAt_deliver_cases (deliver^[n] s) j with hd | hd <;> rw [hd] at h ⊢
    · exact ih h
    · cases h

/-- The payloads go to the tail of `APP`, whole and in order. -/
theorem iterate_deliver_app (s : State) (n : Nat) :
    (deliver^[n] s).app = s.app ++ (List.range n).flatMap fun m => rbPayload s (expIndex s m) := by
  induction n with
  | zero => simp
  | succ n ih =>
    rw [Function.iterate_succ_apply', deliver_frame]
    simp only [ih, slotIndex_iterate_deliver, rbPayload_iterate_deliver, List.range_succ, List.flatMap_append,
      List.flatMap_singleton, List.append_assoc]

theorem iterate_deliver_rb (s : State) (n : Nat) :
    (deliver^[n] s).rb
      = (List.range n).foldl (fun rb m => rb.modify (expIndex s m) fun slot => { slot with valid := false }) s.rb := by
  induction n with
  | zero => rfl
  | succ n ih =>
    rw [Function.iterate_succ_apply', deliver_rb, slotIndex_iterate_deliver, ih, List.range_succ, List.foldl_append]
    rfl

/-- RXDATA is set unless no byte was delivered. -/
theorem iterate_deliver_irqStatus (s : State) (n : Nat) : (deliver^[n] s).irqStatus =
    if (deliver^[n] s).app = s.app then s.irqStatus else s.irqStatus ||| IrqFlag.rxData.bit := by
  induction n with
  | zero => simp
  | succ n ih =>
    have happ : (deliver (deliver^[n] s)).app = (deliver^[n] s).app ++ rbPayload s (expIndex s n) := by
      rw [deliver_frame]
      simp only [slotIndex_iterate_deliver, rbPayload_iterate_deliver]
    rw [Function.iterate_succ_apply', deliver_irqStatus, slotIndex_iterate_deliver, rbPayload_iterate_deliver, happ, ih,
      iterate_deliver_app]
    by_cases hnone : rbPayload s (expIndex s n) = []
    · simp [hnone]
    · by_cases hbefore : ((List.range n).flatMap fun m => rbPayload s (expIndex s m)) = []
      · simp [hnone, hbefore]
      · simp [hnone, hbefore, BitVec.or_assoc]

/-- Up to `W_MAX` deliveries empty distinct slots and leave every other slot alone. -/
theorem rbAt_iterate_deliver {s : State} (hb : s.build.ok = true) (hlen : s.rb.length = s.build.wMax) {n : Nat}
    (hn : n ≤ s.build.wMax) (j : Nat) : rbAt (deliver^[n] s) j =
      if ∃ m < n, expIndex s m = j then { rbAt s j with valid := false } else rbAt s j := by
  rw [rbAt, iterate_deliver_rb]
  exact getD_foldl_modify s.rb n (expIndex s) _ {} (fun _ _ => hlen ▸ expIndex_lt hb _)
    (fun _ hk _ hm h => expIndex_inj hb (by omega) (by omega) h) j

/-! ### `DRAIN` (R153) -/

/-- The loop of `DRAIN` is a run of deliveries, each behind a loop test that holds. -/
theorem drainLoop_eq_iterate (fuel : Nat) (s : State) :
    ∃ n ≤ fuel, drainLoop fuel s = (deliver^[n] s, n) ∧ ∀ m < n, headReady (deliver^[m] s) = true := by
  induction fuel generalizing s with
  | zero => exact ⟨0, le_rfl, rfl, nofun⟩
  | succ fuel ih =>
    by_cases hr : headReady s = true
    · obtain ⟨n, hn, hloop, hready⟩ := ih (deliver s)
      refine ⟨n + 1, Nat.succ_le_succ hn, by rw [drainLoop, if_pos hr, hloop]; rfl, fun m hm => ?_⟩
      cases m with
      | zero => exact hr
      | succ m => exact hready m (Nat.lt_of_succ_lt_succ hm)
    · exact ⟨0, Nat.zero_le _, by rw [drainLoop, if_neg hr]; rfl, nofun⟩

/-- `DRAIN` delivers as long as its loop test holds, and asks for an acknowledgment if it delivered. -/
theorem drainCount_eq_iterate (s : State) :
    ∃ n ≤ s.rb.length, drainCount s = ({ deliver^[n] s with ackReq := if n = 0 then s.ackReq else .ack }, n) ∧
      (∀ m < n, headReady (deliver^[m] s) = true) ∧ headReady (deliver^[n] s) = false := by
  obtain ⟨n, hn, hloop, hready⟩ := drainLoop_eq_iterate s.rb.length s
  have hends : headReady (drainLoop s.rb.length s).1 = false := headReady_drainLoop List.countP_le_length
  rw [hloop] at hends
  refine ⟨n, hn, ?_, hready, hends⟩
  have hack : (deliver^[n] s).ackReq = s.ackReq := by rw [iterate_deliver_frame]
  rw [drainCount, hloop]
  cases n with
  | zero => rfl
  | succ n => rfl

/-- A delivered frame was held in its slot from the start, and the phase is OPEN. -/
theorem held_of_headReady_iterate {s : State} {m : Nat} (h : headReady (deliver^[m] s) = true) :
    s.phase = .opened ∧ (rbAt s (expIndex s m)).valid = true ∧
      (rbAt s (expIndex s m)).seq = s.rcvExp + BitVec.ofNat 8 m := by
  have hphase : (deliver^[m] s).phase = s.phase := by rw [iterate_deliver_frame]
  have hexp : (deliver^[m] s).rcvExp = s.rcvExp + BitVec.ofNat 8 m := by rw [iterate_deliver_frame]
  obtain ⟨hp, hv, hq, -⟩ := (headReady_iff _).mp h
  rw [slotIndex_iterate_deliver] at hv hq
  rw [rbAt_iterate_deliver_of_held hv] at hq
  rw [rbAt_iterate_deliver_of_held hv] at hv
  exact ⟨hphase ▸ hp, hv, hexp ▸ hq⟩

/-- A run of deliveries that each fit stays within `APP_CAP`. -/
theorem length_app_iterate_deliver {s : State} (happ : s.app.length ≤ s.build.appCap) {n : Nat}
    (hready : ∀ m < n, headReady (deliver^[m] s) = true) : (deliver^[n] s).app.length ≤ s.build.appCap := by
  induction n with
  | zero => exact happ
  | succ n ih =>
    have hbefore := ih fun m hm => hready m (by omega)
    have hbuild : (deliver^[n] s).build = s.build := by rw [iterate_deliver_frame]
    obtain ⟨-, -, -, hfit⟩ := (headReady_iff _).mp (hready n (Nat.lt_succ_self n))
    rw [Function.iterate_succ_apply', deliver_frame]
    simp only [List.length_append, rbPayload_length]
    rw [hbuild] at hfit
    omega

/-- A byte that has been written to a slot's payload is delivered as it was written. -/
theorem byteAt_rbPayload {s : State} {j o : Nat} (ho : o < (rbAt s j).len.toNat) {b : Byte}
    (hb : (rbAt s j).data.read o = some b) : byteAt (rbPayload s j) o = b := by
  have hlen : o < (rbPayload s j).length := by rwa [rbPayload_length]
  rw [byteAt, List.getD_eq_getElem _ _ hlen]
  simp [rbPayload, Memory.readRun, hb]

/-- Settles O34: `DRAIN` is a run of `n` deliveries, and ends by its own test. -/
theorem drainDeliversTheContiguousPrefix : Obligations.DrainDeliversTheContiguousPrefix := by
  refine ⟨fun s hb hlen => ?_, fun _ => rfl,
    fun s j => ⟨rbPayload_length s j, fun o ho b hbyte => byteAt_rbPayload ho hbyte⟩⟩
  obtain ⟨n, hn, hcount, hready, hends⟩ := drainCount_eq_iterate s
  rw [hlen] at hn
  refine ⟨n, (deliver^[n] s).app, (deliver^[n] s).rb, (deliver^[n] s).irqStatus, _, hcount, ?_, hn,
    fun h => (held_of_headReady_iterate (hready 0 h)).1, fun m hm => (held_of_headReady_iterate (hready m hm)).2,
    iterate_deliver_app s n, fun happ => length_app_iterate_deliver happ hready, iterate_deliver_irqStatus s n,
    fun m hm => ?_, fun j hj => ?_, fun htest => ?_⟩
  · exact congrArg (fun u : State => { u with ackReq := if n = 0 then s.ackReq else .ack }) (iterate_deliver_frame s n)
  · exact (rbAt_iterate_deliver hb hlen hn _).trans (if_pos ⟨m, hm, rfl⟩)
  · exact (rbAt_iterate_deliver hb hlen hn j).trans (if_neg fun ⟨m, hm, h⟩ => hj m hm h)
  · exact absurd ((headReady_iff (deliver^[n] s)).mpr htest) (by rw [hends]; decide)

/-! ### `STORE` (R152) -/

/-- What `STORE` makes of an empty slot. -/
def storedSlot (q : Seq) (p : List Byte) (old : RbSlot) : RbSlot :=
  { valid := true, seq := q, len := BitVec.ofNat 16 p.length, data := old.data.writeRun 0 p }

theorem storedSlot_len {p : List Byte} (hp : p.length ≤ 65535) (q : Seq) (old : RbSlot) :
    (storedSlot q p old).len.toNat = p.length := by
  rw [storedSlot, BitVec.toNat_ofNat]
  omega

theorem storedSlot_read (q : Seq) (p : List Byte) (old : RbSlot) (o : Nat) :
    (storedSlot q p old).data.read o = if o < p.length then some (byteAt p o) else old.data.read o := by
  split
  · next h => rw [byteAt, List.getD_eq_getElem _ _ h]; exact Memory.read_writeRun_zero _ _ h
  · next h => exact Memory.read_writeRun_above _ _ (Nat.le_of_not_lt h)

section
variable {s : State} {q : Seq}

/-- A slot that is in use is not overwritten (R152). -/
theorem store_of_held (p : List Byte) (hv : (rbAt s (slotIndex s q)).valid = true) : store s q p = s := if_pos hv

theorem store_of_empty (p : List Byte) (hv : (rbAt s (slotIndex s q)).valid = false) :
    store s q p = modifyRb s (slotIndex s q) (storedSlot q p) := if_neg (by rw [hv]; decide)

theorem head_store (p : List Byte) :
    slotIndex (store s q p) (store s q p).rcvExp = slotIndex s s.rcvExp := by
  rw [store_frame]
  rfl

theorem rbAt_store_of_ne (p : List Byte) {i : Nat} (hi : i ≠ slotIndex s q) : rbAt (store s q p) i = rbAt s i := by
  cases hv : (rbAt s (slotIndex s q)).valid with
  | true => rw [store_of_held p hv]
  | false =>
    rw [store_of_empty p hv]
    exact (rbAt_modifyRb_cases s _ i _).resolve_right fun h => hi h.1

/-- A slot that holds a frame is as before. -/
theorem rbAt_store_of_held (p : List Byte) {i : Nat} (hv : (rbAt s i).valid = true) :
    rbAt (store s q p) i = rbAt s i := by
  by_cases hi : i = slotIndex s q
  · rw [store_of_held p (hi ▸ hv)]
  · exact rbAt_store_of_ne p hi

theorem rbAt_store_of_empty (hb : s.build.ok = true) (hlen : s.rb.length = s.build.wMax) (p : List Byte)
    (hv : (rbAt s (slotIndex s q)).valid = false) :
    rbAt (store s q p) (slotIndex s q) = storedSlot q p (rbAt s (slotIndex s q)) := by
  rw [store_of_empty p hv, rbAt_modifyRb s _ _ _ (hlen ▸ slotIndex_lt hb q), if_pos rfl]

end

/-! ### `ONFRAME` in the acceptance window (R151, R154) -/

section
variable {s : State} {q : Seq} {p : List Byte}

theorem onFrame_of_window (hd : (q - s.rcvExp).toNat < s.effWin.toNat) :
    onFrame s q p =
      ackReqUpdate (drainCount (store s q p)).1 (q - s.rcvExp).toNat (drainCount (store s q p)).2 := if_pos hd

theorem ackReqUpdate_of_delivered {d n : Nat} (hn : 0 < n) : ackReqUpdate s d n = s := if_pos hn

/-- Ahead of a missing head (R154). -/
theorem ackReqUpdate_of_gap {d : Nat} (hd : 1 ≤ d) (hv : (rbAt s (slotIndex s s.rcvExp)).valid = false) :
    ackReqUpdate s d 0 = { s with ackReq := .nack } := by
  rw [ackReqUpdate, if_neg (Nat.lt_irrefl 0), if_pos ⟨hd, hv⟩]

/-- Nothing delivered and no gap: the head is there and waits (R154). -/
theorem ackReqUpdate_of_waiting {d : Nat} (hv : (rbAt s (slotIndex s s.rcvExp)).valid = true) :
    ackReqUpdate s d 0 = { s with ackReq := if s.ackReq = .none then .ack else s.ackReq } := by
  rw [ackReqUpdate, if_neg (Nat.lt_irrefl 0), if_neg (by simp [hv])]
  split <;> rfl

/-- The file `rb'` is that of `s` with the frame in its slot, and every other slot as before (R152). -/
abbrev StoredIn (s : State) (q : Seq) (p : List Byte) (rb' : List RbSlot) : Prop :=
  (let r : RbSlot := rb'.getD (slotIndex s q) {};
    r.valid = true ∧ r.seq = q ∧ r.len.toNat = p.length ∧
    ∀ o, r.data.read o = if o < p.length then some (byteAt p o) else (rbAt s (slotIndex s q)).data.read o) ∧
  ∀ i, i ≠ slotIndex s q → rb'.getD i {} = rbAt s i

/-- A frame that is kept and delivers nothing: its slot is written unless it is in use, and `ACKREQ` is `req`. -/
abbrev KeepsFrame (s : State) (q : Seq) (p : List Byte) (req : AckReq) : Prop :=
  ((rbAt s (slotIndex s q)).valid = true → onFrame s q p = { s with ackReq := req }) ∧
  ((rbAt s (slotIndex s q)).valid = false → ∃ rb',
    onFrame s q p = { s with rb := rb', ackReq := req } ∧ StoredIn s q p rb')

theorem storedIn_store (hb : s.build.ok = true) (hlen : s.rb.length = s.build.wMax) (hp : p.length ≤ 65535)
    (hv : (rbAt s (slotIndex s q)).valid = false) : StoredIn s q p (store s q p).rb := by
  have hslot : (store s q p).rb.getD (slotIndex s q) {} = storedSlot q p (rbAt s (slotIndex s q)) :=
    rbAt_store_of_empty hb hlen p hv
  refine ⟨?_, fun i hi => rbAt_store_of_ne p hi⟩
  rw [hslot]
  exact ⟨rfl, rfl, storedSlot_len hp _ _, storedSlot_read _ _ _⟩

/-- With the head not ready behind `STORE`, the frame is kept. -/
theorem keepsFrame_of_stuck (hb : s.build.ok = true) (hlen : s.rb.length = s.build.wMax) (hp : p.length ≤ 65535)
    (hd : (q - s.rcvExp).toNat < s.effWin.toNat) (hstuck : headReady (store s q p) = false) {req : AckReq}
    (hreq : ackReqUpdate (store s q p) (q - s.rcvExp).toNat 0 = { store s q p with ackReq := req }) :
    KeepsFrame s q p req := by
  have hframe : onFrame s q p = { store s q p with ackReq := req } := by
    rw [onFrame_of_window hd, drain_stuck hstuck, hreq]
  refine ⟨fun hv => ?_, fun hv => ⟨(store s q p).rb, ?_, storedIn_store hb hlen hp hv⟩⟩
  · rw [hframe, store_of_held p hv]
  · rw [hframe, store_frame]

variable (hpar : Parameters s) (hre : Reassembly s) (hp : p.length ≤ 65535)
  (hd : (q - s.rcvExp).toNat < s.effWin.toNat)
include hpar hre hp hd

/-- Ahead of a missing head: the frame takes another slot, so the head is still missing. -/
theorem keepsFrame_of_gap (hahead : 1 ≤ (q - s.rcvExp).toNat)
    (hv : (rbAt s (slotIndex s s.rcvExp)).valid = false) : KeepsFrame s q p .nack := by
  have hne : slotIndex s s.rcvExp ≠ slotIndex s q := fun h => by
    rw [seq_eq_rcvExp_of_head hpar h.symm hd] at hahead
    simp at hahead
  have hmissing : (rbAt (store s q p) (slotIndex (store s q p) (store s q p).rcvExp)).valid = false := by
    rw [head_store, rbAt_store_of_ne p hne, hv]
  have hstuck : headReady (store s q p) = false := by
    rw [← Bool.not_eq_true, headReady_iff]
    simp [hmissing]
  exact keepsFrame_of_stuck hpar.1 hre.1 hp hd hstuck (ackReqUpdate_of_gap hahead hmissing)

/-- The head waits for room, or is the frame itself, which does not fit. -/
theorem keepsFrame_of_noRoom (ho : s.phase = .opened)
    (hfull : (rbAt s (slotIndex s s.rcvExp)).valid = true ∨
      (q = s.rcvExp ∧ s.build.appCap - s.app.length < p.length)) :
    KeepsFrame s q p (if s.ackReq = .none then .ack else s.ackReq) := by
  obtain ⟨hlen, -, -, hwaits⟩ := hre
  have hhead : (rbAt (store s q p) (slotIndex s s.rcvExp)).valid = true ∧
      s.build.appCap - s.app.length < (rbAt (store s q p) (slotIndex s s.rcvExp)).len.toNat := by
    cases hv : (rbAt s (slotIndex s s.rcvExp)).valid with
    | true =>
      rw [rbAt_store_of_held p hv]
      exact ⟨hv, (hwaits ho hv).2⟩
    | false =>
      obtain ⟨rfl, hroom⟩ := hfull.resolve_left (by simp [hv])
      rw [rbAt_store_of_empty hpar.1 hlen p hv, storedSlot_len hp]
      exact ⟨rfl, hroom⟩
  obtain ⟨hvalid, hroom⟩ := hhead
  have hfree : (store s q p).build.appCap - (store s q p).app.length = s.build.appCap - s.app.length := by
    rw [store_frame]
  have hack : (store s q p).ackReq = s.ackReq := by rw [store_frame]
  have hstuck : headReady (store s q p) = false := by
    rw [← Bool.not_eq_true, headReady_iff, head_store, hfree]
    rintro ⟨-, -, -, hfit⟩
    omega
  refine keepsFrame_of_stuck hpar.1 hlen hp hd hstuck ?_
  rw [ackReqUpdate_of_waiting (by rwa [head_store]), hack]

end

/-! ### DATA frames that wait (R152, R154) -/

/-- `ONACK` writes nothing that `ONFRAME` reads (R117). -/
theorem onAck_exists (s : State) (a : Seq) :
    ∃ sw una irq, onAck s a = { s with sw := sw, sndUna := una, irqStatus := irq } := ⟨_, _, _, onAck_frame s a⟩

/-- A DATA frame that `ONFRAME` keeps, whatever `ONACK` did before it, is kept. -/
theorem exec_data_of_keepsFrame {s : State} {q a : Seq} {p : List Byte} {req : AckReq} (ho : s.phase = .opened)
    (h : ∀ sw una irq, KeepsFrame { s with sw := sw, sndUna := una, irqStatus := irq } q p req) :
    ((rbAt s (slotIndex s q)).valid = true → exec (.data q a p) s = .next { onAck s a with ackReq := req }) ∧
    ((rbAt s (slotIndex s q)).valid = false → ∃ rb',
      exec (.data q a p) s = .next { onAck s a with rb := rb', ackReq := req } ∧ StoredIn s q p rb') := by
  obtain ⟨sw, una, irq, hack⟩ := onAck_exists s a
  obtain ⟨hheld, hempty⟩ := h sw una irq
  rw [exec_data_of_opened ho, hack]
  refine ⟨fun hv => congrArg _ (hheld hv), fun hv => ?_⟩
  obtain ⟨rb', heq, hstored⟩ := hempty hv
  exact ⟨rb', congrArg _ heq, hstored⟩

/-- Settles O28: `ONFRAME` behind `ONACK`, ahead of a missing head. -/
theorem dataAheadIsBufferedAndNacked : Obligations.DataAheadIsBufferedAndNacked :=
  fun _ _ _ _ ho hpar _ hre hp hahead hd hv =>
    exec_data_of_keepsFrame ho fun _ _ _ => keepsFrame_of_gap hpar hre hp hd hahead hv

/-- Settles O30: `ONFRAME` behind `ONACK`, with no room for the head. -/
theorem dataWaitsForRoom : Obligations.DataWaitsForRoom :=
  fun _ _ _ _ ho hpar _ hre hp hd hfull =>
    exec_data_of_keepsFrame ho fun _ _ _ => keepsFrame_of_noRoom hpar hre hp hd ho hfull

/-! ### The expected DATA frame (R151, R153) -/

theorem expIndex_wMax {s : State} (hb : s.build.ok = true) : expIndex s s.build.wMax = slotIndex s s.rcvExp := by
  rw [expIndex, slotIndex_add hb, Nat.add_mod_right]
  rfl

/-- A frame less than `W_MAX` numbers ahead that is in the slot of the `n`-th expected one is that one (R45). -/
theorem seq_eq_of_expIndex {s : State} (hb : s.build.ok = true) {q : Seq} {n : Nat} (hi : slotIndex s q = expIndex s n)
    (hd : (q - s.rcvExp).toNat < s.build.wMax) (hn : n < s.build.wMax) : q = s.rcvExp + BitVec.ofNat 8 n := by
  have hq : s.rcvExp + BitVec.ofNat 8 (q - s.rcvExp).toNat = q := by
    rw [BitVec.ofNat_toNat, BitVec.setWidth_eq]
    bv_omega
  have hdist : (q - s.rcvExp).toNat = n := expIndex_inj hb hd hn (by rw [expIndex, hq, hi])
  rw [← hdist, hq]

theorem expIndex_store (s : State) (q : Seq) (p : List Byte) : expIndex (store s q p) = expIndex s := by
  rw [store_frame]
  rfl

theorem rbPayload_store_of_ne {s : State} {q : Seq} (p : List Byte) {i : Nat} (hi : i ≠ slotIndex s q) :
    rbPayload (store s q p) i = rbPayload s i := by
  have he : (store s q p).epoch = s.epoch := by rw [store_frame]
  rw [rbPayload, rbAt_store_of_ne p hi, he, rbPayload]

/-- `APP` behind the expected frame's payload and those of the `n - 1` frames that waited behind it. -/
def appWithExpected (s : State) (p : List Byte) (n : Nat) : List Byte :=
  s.app ++ p ++ (List.range (n - 1)).flatMap fun m => rbPayload s (expIndex s (m + 1))

section
variable {s : State} {p : List Byte} (hb : s.build.ok = true) (hlen : s.rb.length = s.build.wMax)
include hb

/-- The frames behind the expected one are in other slots. -/
theorem expIndex_ne_head {m : Nat} (h1 : 1 ≤ m) (hm : m < s.build.wMax) : expIndex s m ≠ slotIndex s s.rcvExp := by
  rw [← expIndex_zero]
  intro h
  have := expIndex_inj hb hm (Build.ok_wMax_pos hb) h
  omega

/-- The frames delivered behind the expected one were waiting in their slots. -/
theorem held_behind_expected {m : Nat} (h1 : 1 ≤ m) (hm : m < s.build.wMax)
    (hready : headReady (deliver^[m] (store s s.rcvExp p)) = true) :
    (rbAt s (expIndex s m)).valid = true ∧ (rbAt s (expIndex s m)).seq = s.rcvExp + BitVec.ofNat 8 m := by
  have hexp : (store s s.rcvExp p).rcvExp = s.rcvExp := by rw [store_frame]
  obtain ⟨-, hheld⟩ := held_of_headReady_iterate hready
  rwa [expIndex_store, rbAt_store_of_ne p (expIndex_ne_head hb h1 hm), hexp] at hheld

include hlen

theorem rbAt_delivered_behind_store {n : Nat} (hn : n ≤ s.build.wMax) (j : Nat) :
    rbAt (deliver^[n] (store s s.rcvExp p)) j = if ∃ m < n, expIndex s m = j then
      { rbAt (store s s.rcvExp p) j with valid := false } else rbAt (store s s.rcvExp p) j := by
  have hbuild : (store s s.rcvExp p).build = s.build := by rw [store_frame]
  have h := rbAt_iterate_deliver (s := store s s.rcvExp p) (n := n) (hbuild ▸ hb)
    (by rw [store_rb_length, hlen, hbuild]) (hbuild ▸ hn) j
  rwa [expIndex_store] at h

theorem valid_delivered_behind_store {n m : Nat} (hn : n ≤ s.build.wMax) (hm : m < n) :
    (rbAt (deliver^[n] (store s s.rcvExp p)) (expIndex s m)).valid = false := by
  rw [rbAt_delivered_behind_store hb hlen hn, if_pos ⟨m, hm, rfl⟩]

/-- Every slot that was not delivered is as it was before the frame came. -/
theorem rbAt_delivered_behind_store_other {n : Nat} (h1 : 1 ≤ n) (hn : n ≤ s.build.wMax) {i : Nat}
    (hi : ∀ m < n, expIndex s m ≠ i) : rbAt (deliver^[n] (store s s.rcvExp p)) i = rbAt s i := by
  have hne : i ≠ slotIndex s s.rcvExp := fun h => hi 0 h1 (by rw [expIndex_zero, h])
  rw [rbAt_delivered_behind_store hb hlen hn, if_neg fun ⟨m, hm, h⟩ => hi m hm h, rbAt_store_of_ne p hne]

variable (hp : p.length ≤ 65535) (hv : (rbAt s (slotIndex s s.rcvExp)).valid = false)
include hp hv

theorem rbPayload_store_expected : rbPayload (store s s.rcvExp p) (slotIndex s s.rcvExp) = p := by
  have hslot := rbAt_store_of_empty hb hlen p hv
  rw [rbPayload, hslot, storedSlot_len hp]
  exact Memory.readRun_writeRun _ _ _

theorem headReady_store_expected (ho : s.phase = .opened) (hfit : p.length ≤ s.build.appCap - s.app.length) :
    headReady (store s s.rcvExp p) = true := by
  have hslot := rbAt_store_of_empty hb hlen p hv
  rw [headReady_iff, head_store, hslot, storedSlot_len hp, store_frame]
  exact ⟨ho, rfl, rfl, hfit⟩

/-- What is delivered behind `STORE` of the expected frame. -/
theorem app_delivered_behind_store {n : Nat} (h1 : 1 ≤ n) (hn : n ≤ s.build.wMax) :
    (deliver^[n] (store s s.rcvExp p)).app = appWithExpected s p n := by
  obtain ⟨k, rfl⟩ := Nat.exists_eq_add_of_le' h1
  have happ : (store s s.rcvExp p).app = s.app := by rw [store_frame]
  have hwaited : ∀ m ∈ List.range k,
      rbPayload (store s s.rcvExp p) (expIndex s (m + 1)) = rbPayload s (expIndex s (m + 1)) := fun m hm =>
    rbPayload_store_of_ne p (expIndex_ne_head hb (by omega) (by have := List.mem_range.mp hm; omega))
  rw [iterate_deliver_app, expIndex_store, happ, List.range_succ_eq_map, List.flatMap_cons, List.flatMap_map,
    expIndex_zero, rbPayload_store_expected hb hlen hp hv, appWithExpected, Nat.add_sub_cancel, List.append_assoc]
  rw [List.flatMap_congr hwaited]

/-- The expected frame, with room for it, is delivered, and then as many of those behind it as the loop test of `DRAIN`
lets pass. -/
theorem onFrame_expected (hwin : 1 ≤ s.effWin.toNat) (ho : s.phase = .opened)
    (hfit : p.length ≤ s.build.appCap - s.app.length) :
    ∃ n, 1 ≤ n ∧ n ≤ s.build.wMax ∧
      onFrame s s.rcvExp p = { s with
        app := appWithExpected s p n, rcvExp := s.rcvExp + BitVec.ofNat 8 n, ackReq := .ack,
        rb := (deliver^[n] (store s s.rcvExp p)).rb,
        irqStatus := if appWithExpected s p n = s.app then s.irqStatus else s.irqStatus ||| IrqFlag.rxData.bit } ∧
      (∀ m < n, headReady (deliver^[m] (store s s.rcvExp p)) = true) ∧
      headReady (deliver^[n] (store s s.rcvExp p)) = false := by
  have hd : (s.rcvExp - s.rcvExp).toNat < s.effWin.toNat := by
    rw [BitVec.sub_self]
    exact hwin
  obtain ⟨n, hn, hcount, hready, hends⟩ := drainCount_eq_iterate (store s s.rcvExp p)
  have hpos : 0 < n := by
    refine Nat.pos_of_ne_zero fun h => ?_
    rw [h, Function.iterate_zero_apply, headReady_store_expected hb hlen hp hv ho hfit] at hends
    cases hends
  rw [store_rb_length, hlen] at hn
  refine ⟨n, hpos, hn, ?_, hready, hends⟩
  have happ := app_delivered_behind_store hb hlen hp hv hpos hn
  have hirq := iterate_deliver_irqStatus (store s s.rcvExp p) n
  have happ0 : (store s s.rcvExp p).app = s.app := by rw [store_frame]
  have hirq0 : (store s s.rcvExp p).irqStatus = s.irqStatus := by rw [store_frame]
  rw [happ, happ0, hirq0] at hirq
  rw [onFrame_of_window hd, hcount, ackReqUpdate_of_delivered hpos, if_neg (Nat.pos_iff_ne_zero.mp hpos),
    iterate_deliver_frame, happ, hirq, store_frame]

end

/-- Where the deliveries end, the next slot is empty or holds the next frame, which does not fit: what is held there
is a frame of the acceptance window (R47), and after `W_MAX` deliveries the slot is the expected frame's own. -/
theorem noRoom_behind_expected {s : State} {p : List Byte} (hpar : Parameters s) (hre : Reassembly s)
    (ho : s.phase = .opened) {n : Nat} (h1 : 1 ≤ n) (hn : n ≤ s.build.wMax)
    (hends : headReady (deliver^[n] (store s s.rcvExp p)) = false)
    (hv : (rbAt (deliver^[n] (store s s.rcvExp p)) (expIndex s n)).valid = true) :
    s.build.appCap - (deliver^[n] (store s s.rcvExp p)).app.length
      < (rbAt (deliver^[n] (store s s.rcvExp p)) (expIndex s n)).len.toNat := by
  obtain ⟨hb, -⟩ := id hpar
  obtain ⟨hlen, -, hheld, -⟩ := hre
  have hlt : n < s.build.wMax := by
    refine Nat.lt_of_le_of_ne hn fun h => ?_
    have hhead : expIndex s n = expIndex s 0 := by rw [h, expIndex_wMax hb, expIndex_zero]
    rw [hhead, valid_delivered_behind_store hb hlen hn h1] at hv
    cases hv
  have hslot : rbAt (deliver^[n] (store s s.rcvExp p)) (expIndex s n) = rbAt s (expIndex s n) :=
    rbAt_delivered_behind_store_other hb hlen h1 hn fun m hm h => by
      have := expIndex_inj hb (by omega) hlt h
      omega
  have hvs : (rbAt s (expIndex s n)).valid = true := hslot ▸ hv
  obtain ⟨hi, hd, -⟩ := hheld ho _ (hlen ▸ expIndex_lt hb n) hvs
  have hseq := seq_eq_of_expIndex hb hi (hd.trans_le (effWin_le_wMax hpar)) hlt
  have hphase : (deliver^[n] (store s s.rcvExp p)).phase = .opened := by rw [iterate_deliver_frame, store_frame, ho]
  have hexp : (deliver^[n] (store s s.rcvExp p)).rcvExp = s.rcvExp + BitVec.ofNat 8 n := by
    rw [iterate_deliver_frame, store_frame]
  have hbuild : (deliver^[n] (store s s.rcvExp p)).build = s.build := by rw [iterate_deliver_frame, store_frame]
  refine Nat.lt_of_not_le fun hfit => ?_
  have hready : headReady (deliver^[n] (store s s.rcvExp p)) = true := by
    rw [headReady_iff, slotIndex_iterate_deliver, expIndex_store, hphase, hexp, hbuild]
    exact ⟨rfl, hv, by rw [hslot, hseq], hfit⟩
  rw [hready] at hends
  cases hends

/-- Settles O29: `ONFRAME` behind `ONACK` is `STORE` of the expected frame, then the deliveries of `DRAIN`. -/
theorem dataExpectedIsDelivered : Obligations.DataExpectedIsDelivered := by
  intro s ack p ho hpar hf hre hp hfit hv
  obtain ⟨hb, -, -, -, -, -, hfrozen, -⟩ := id hpar
  obtain ⟨hlen, -⟩ := id hre
  obtain ⟨-, hwin, -⟩ := hfrozen hf
  obtain ⟨sw, una, irq, hack⟩ := onAck_exists s ack
  rw [exec_data_of_opened ho, hack]
  let u : State := { s with sw := sw, sndUna := una, irqStatus := irq }
  obtain ⟨n, h1, hn, hframe, hready, hends⟩ := onFrame_expected (s := u) hb hlen hp hv hwin ho hfit
  refine ⟨n, (deliver^[n] (store u u.rcvExp p)).rb, h1, hn, congrArg _ hframe,
    fun m hm1 hm => held_behind_expected (s := u) hb hm1 (by omega) (hready m hm),
    fun m hm => valid_delivered_behind_store (s := u) hb hlen hn hm,
    fun i hi => rbAt_delivered_behind_store_other (s := u) hb hlen h1 hn hi, fun h => ?_⟩
  have hroom := noRoom_behind_expected (s := u) hpar hre ho h1 hn hends h
  rw [app_delivered_behind_store (s := u) hb hlen hp hv h1 hn] at hroom
  exact hroom

end Sys2Proof.Machine

/-! SUPPORT. The statements of spec/43_linkcontrol.md: `SCHED_LCTRL` by phase, then the two LCTRL frames, the proposal
that freezes the parameters and the FIN that closes the stream. -/

namespace Sys2Proof.Machine

/-! ### `SCHED_LCTRL` (R171) -/

/-- Before `START` there is nothing to request. -/
theorem exec_schedLctrl_of_idle {s : State} (hp : s.phase = .idle) :
    exec .schedLctrl s = .next (emitT s .ok 0 0) := by
  simp only [exec, execSchedLctrl, hp]

theorem exec_schedLctrl_of_live {s : State} (hp : s.phase.live = true) :
    exec .schedLctrl s = .next (emitT { s with lctrlReq := true } .ok 0 0) := by
  rcases (Phase.live_iff _).mp hp with hp | hp <;> simp only [exec, execSchedLctrl, hp]

theorem exec_schedLctrl_of_closed {s : State} (hp : s.phase = .closed) :
    exec .schedLctrl s = .next (emitT s .closed 0 0) := by
  simp only [exec, execSchedLctrl, hp]

theorem exec_schedLctrl_of_dead {s : State} (hp : s.phase = .dead) :
    exec .schedLctrl s = .next (emitT s .dead 0 0) := by
  simp only [exec, execSchedLctrl, hp]

/-- Settles O19: a live stream gets the request, every other phase its answer only. -/
theorem schedLctrlByPhase : Obligations.SchedLctrlByPhase :=
  fun _ => ⟨fun hp => exec_schedLctrl_of_live ((Phase.live_iff _).mpr hp), exec_schedLctrl_of_idle,
    exec_schedLctrl_of_closed, exec_schedLctrl_of_dead⟩

/-! ### The freeze (R174) -/

/-- The minimum is at most the proposed value, so it fits its register. -/
theorem freeze_effPkt_toNat (s : State) (pkt : BitVec 16) (win : Byte) :
    (freeze s pkt win).effPkt.toNat = min s.localPkt.toNat pkt.toNat :=
  Nat.mod_eq_of_lt ((Nat.min_le_right _ _).trans_lt pkt.isLt)

theorem freeze_effWin_toNat (s : State) (pkt : BitVec 16) (win : Byte) :
    (freeze s pkt win).effWin.toNat = min s.localWin.toNat win.toNat :=
  Nat.mod_eq_of_lt ((Nat.min_le_right _ _).trans_lt win.isLt)

/-! ### The two LCTRL frames -/

/-- Settles O32: a proposal freezes the minimum in phase NEGOTIATING only; the reply rule (R175) holds in every
phase. -/
theorem lctrlFreezesTheMinimum : Obligations.LctrlFreezesTheMinimum := by
  intro s rsp pkt win
  have hexec : exec (.lctrl rsp pkt win) s = .next (onLctrl s rsp pkt win) := rfl
  rw [hexec]
  rcases onLctrl_cases s rsp pkt win with ⟨hp, h⟩ | ⟨hp, h⟩ <;> rw [h]
  · exact ⟨fun _ => ⟨(freeze s pkt win).effPkt, (freeze s pkt win).effWin, rfl, freeze_effPkt_toNat s pkt win,
      freeze_effWin_toNat s pkt win⟩, fun hn => absurd hp hn⟩
  · exact ⟨fun hn => absurd hn hp, fun _ => rfl⟩

/-- A close whose cause is not the local one asks for no FIN (R189). -/
theorem doClose_of_remote (s : State) {c : CloseCause} (hc : c ≠ .localClose) :
    doClose s c = { s with
      phase := .closed, closeCause := c, rxEn := false, irqStatus := s.irqStatus ||| IrqFlag.bit .closed } := by
  rw [doClose, if_neg hc, setIrq]

/-- Settles O33: a FIN is `DO_CLOSE(2)` (R178). -/
theorem finClosesTheStream : Obligations.FinClosesTheStream := by
  intro s rsp pkt win
  have hexec : exec (.lctrlFin rsp pkt win) s = .next (doClose s .peerFin) := rfl
  rw [hexec, doClose_of_remote s (by decide)]
  rfl

end Sys2Proof.Machine

/-! SUPPORT. The statements of spec/44_stream_host.md: a step from a state at rest whose handler only answers (`NOP`),
the register table that `RDCSR` reads, the commands that are refused, and `START` and `CLOSE` by phase.
As for `decodePortT` above, some definitions are opened by `delta`, which needs no equation lemmas. -/

namespace Sys2Proof.Machine

/-! ### A machine at rest stays at rest while only its events and outputs change (R186, R211) -/

/-- A pending `PULL` cannot be completed yet (R157). -/
abbrev PullWaits (s : State) : Prop :=
  s.pullPend = true → s.app = [] ∧ s.phase ≠ .closed ∧ s.phase ≠ .dead ∧ s.pullNowait = false

theorem pullCheck_eq_self {s : State} (h : PullWaits s) : pullCheck s = s := by
  cases hp : s.pullPend with
  | false => exact pullCheck_of_notPending hp
  | true =>
    obtain ⟨ha, hc, hd, hw⟩ := h hp
    rw [pullCheck_of_empty hp ha, if_neg hc, if_neg hd, if_neg (by simp [hw])]

/-- At rest none of the closing procedures has anything to do: a delivery would still be possible at the end, and a
completed `PULL` would no longer be pending. -/
theorem AtRest.nothingToDo {s : State} (h : AtRest s) : headReady s = false ∧ PullWaits s ∧ txKick s = s := by
  have hready : headReady s = false := by
    have hc := headReady_closing s
    rwa [h] at hc
  have hclosing : txKick (drain (pullCheck (drain s))) = s := h
  rw [drain_eq_self hready] at hclosing
  have hpend : (pullCheck s).pullPend = s.pullPend := by
    have hc := congrArg State.pullPend hclosing
    rwa [txKick_frame, drain_frame] at hc
  have hpull : PullWaits s := fun hp => (pullCheck_pending (hpend.trans hp)).2
  exact ⟨hready, hpull, by rwa [pullCheck_eq_self hpull, drain_eq_self hready] at hclosing⟩

theorem nextToSend_withOutputs (s : State) (evs : List Event) (o : Outputs) (ks : List Nat) :
    nextToSend { s with events := evs, out := o } ks = nextToSend s ks := by
  induction ks with
  | nil => rfl
  | cons k ks ih => exact if_congr Iff.rfl rfl ih

/-- `TX_KICK` neither reads nor writes the offered events and the outputs (R212). -/
theorem txKick_withOutputs (s : State) (evs : List Event) (o : Outputs) :
    txKick { s with events := evs, out := o } = { txKick s with events := evs, out := o } := by
  delta txKick
  split
  · rfl
  split
  · rfl
  split
  · rfl
  split
  · rfl
  split
  · rfl
  split
  · rw [nextToSend_withOutputs, show nOut { s with events := evs, out := o } = nOut s from rfl]
    cases nextToSend s (List.range (nOut s)) <;> rfl
  · rfl

/-- Being at rest does not depend on what is offered next or was emitted last. -/
theorem AtRest.withOutputs {s : State} (h : AtRest s) (evs : List Event) (o : Outputs) :
    AtRest { s with events := evs, out := o } := by
  obtain ⟨hready, hpull, hkick⟩ := h.nothingToDo
  have hready' : headReady { s with events := evs, out := o } = false := hready
  have hpull' : PullWaits { s with events := evs, out := o } := hpull
  change txKick (drain (pullCheck (drain { s with events := evs, out := o }))) = _
  rw [drain_eq_self hready', pullCheck_eq_self hpull', drain_eq_self hready', txKick_withOutputs, hkick]

/-- Settles O16: the handler of `NOP` only answers, so the state stays at rest and the closing procedures do nothing. -/
theorem nopLeavesTheStateUnchanged : Obligations.NopLeavesTheStateUnchanged := by
  refine ⟨fun s => rfl, fun s rest w d hrest h hopc => ?_⟩
  have hstep : step s = .next (closing (emitT (beginStep s rest) .ok 0 0)) :=
    step_of_command h (fetch_cmdT_ok _ (decodePortT_nop hopc)) rfl
  exact hstep.trans (congrArg _ (hrest.withOutputs rest _))

/-! ### The register table (R37, R39, R193) -/

/-- The registers in the order of their indices (R37). -/
def csrOrder : List Csr :=
  [.id, .cap, .cap2, .state, .localPkt, .localWin, .baud, .effPkt, .effWin, .rtoInit, .rtoMax, .retryMax, .lctrlPeriod,
    .now, .sndUna, .sndNext, .rcvExp, .winCount, .appCount, .irqStatus, .irqEnable, .deadCause, .deadInfo, .dropFcs,
    .dropFormat, .dropOversize, .dropSeq]

theorem csrOfIndex_eq_getElem? (idx : Byte) : csrOfIndex idx = csrOrder[idx.toNat]? := by
  revert idx
  decide +kernel

/-- Concatenated fields as a number: the high one counts in units of the low one's width. -/
theorem append_toNat {n m : Nat} (x : BitVec n) (y : BitVec m) : (x ++ y).toNat = x.toNat * 2 ^ m + y.toNat := by
  rw [BitVec.toNat_append, ← Nat.shiftLeft_add_eq_or_of_lt y.isLt, Nat.shiftLeft_eq]

/-- The maxima of a legal build fit their fields of `CAP` (R7, R37). -/
theorem csrValue_cap {s : State} (hb : s.build.ok = true) :
    csrValue s .cap = BitVec.ofNat 32 (s.build.pMax * 256 + s.build.wMax) := by
  have hp := Build.ok_pMax hb
  have hw := Build.ok_wMax_le hb
  have hcap : csrValue s .cap = 0#8 ++ BitVec.ofNat 16 s.build.pMax ++ BitVec.ofNat 8 s.build.wMax := rfl
  refine BitVec.eq_of_toNat_eq ?_
  simp only [hcap, append_toNat, BitVec.toNat_ofNat]
  omega

/-- The fields of `STATE` (R37). -/
theorem csrValue_state {s : State} {released : Prop} [Decidable released] (h : linkReleased s = true ↔ released) :
    csrValue s .state = BitVec.ofNat 32 (s.phase.code.toNat + 8 * s.frozen.toNat + 16 * s.closeCause.code.toNat +
      64 * (if released then 1 else 0) + 128 * s.pullPend.toNat) := by
  have hrel : (linkReleased s).toNat = if released then 1 else 0 := by
    simp only [← h]
    cases linkReleased s <;> rfl
  have hfrozen := s.frozen.toNat_le
  have hreleased := (linkReleased s).toNat_le
  have hpend := s.pullPend.toNat_le
  have hstate : csrValue s .state = 0#24 ++ BitVec.ofBool s.pullPend ++ BitVec.ofBool (linkReleased s) ++
      s.closeCause.code ++ BitVec.ofBool s.frozen ++ s.phase.code := rfl
  rw [← hrel]
  refine BitVec.eq_of_toNat_eq ?_
  simp only [hstate, append_toNat, BitVec.toNat_ofNat, BitVec.toNat_ofBool]
  omega

/-- The count of outstanding frames is an 8-bit difference, zero-extended (R22, R37). -/
theorem csrValue_winCount (s : State) : csrValue s .winCount = (s.sndNext - s.sndUna).setWidth 32 :=
  BitVec.ofNat_toNat 32 (s.sndNext - s.sndUna)

/-- A register of the table (R39, R193). -/
theorem csrRead_of_lt (s : State) {idx : Byte} (h : idx.toNat < csrOrder.length) :
    csrRead s idx = (.ok, (csrOrder.map (csrValue s)).getD idx.toNat 0) := by
  have hi : csrOfIndex idx = some csrOrder[idx.toNat] := by
    rw [csrOfIndex_eq_getElem?, List.getElem?_eq_getElem h]
  have hv : (csrOrder.map (csrValue s)).getD idx.toNat 0 = csrValue s csrOrder[idx.toNat] := by simp [h]
  delta csrRead
  rw [hi, hv]

/-- A reserved index (R193). -/
theorem csrRead_of_le (s : State) {idx : Byte} (h : csrOrder.length ≤ idx.toNat) : csrRead s idx = (.badArg, 0) := by
  delta csrRead
  rw [csrOfIndex_eq_getElem?, List.getElem?_eq_none h]

/-- Settles O23: the table of R37 is `csrOrder` with each register's value, most of which are zero-extended fields. -/
theorem rdcsrReadsTheTable : Obligations.RdcsrReadsTheTable := by
  refine ⟨by decide, by decide, by decide, fun s idx hb => ?_⟩
  intro released table
  have hvalues : csrOrder.map (csrValue s) = table.map (BitVec.ofNat 32) := by
    simp only [table, released, List.map_cons, List.map_nil, ← csrValue_cap hb,
      ← csrValue_state (linkReleased_iff s), BitVec.ofNat_toNat, BitVec.setWidth_eq, ← csrValue_winCount]
    rfl
  have hexec : exec (.rdcsr idx) s = .next (emitT s (csrRead s idx).1 0 (csrRead s idx).2) := rfl
  rw [hexec]
  by_cases h : idx.toNat < 27
  · have hget : (table.map (BitVec.ofNat 32)).getD idx.toNat 0 = BitVec.ofNat 32 (table.getD idx.toNat 0) :=
      List.getD_map ..
    rw [if_pos h, csrRead_of_lt s h, hvalues, hget]
    rfl
  · rw [if_neg h, csrRead_of_le s (Nat.not_lt.mp h)]
    rfl

/-! ### Refused commands (R99, R195) -/

theorem decodePortT_pull {w : Word64} (d : List Byte) (h : (opcOf w).toNat = 5) :
    decodePortT w d = .error .wrongPort := by
  delta decodePortT; rw [h]; rfl

theorem decodePortT_reserved {w : Word64} (d : List Byte) (h : 8 ≤ (opcOf w).toNat) :
    decodePortT w d = .error .reservedOpcode := by
  obtain ⟨k, hk⟩ := Nat.exists_eq_add_of_le' h
  delta decodePortT; rw [hk]; rfl

theorem decodePortR_wrongPort {w : Word64} (h : (opcOf w).toNat ≠ 5) : decodePortR w = .error .wrongPort :=
  if_neg fun h5 => h (congrArg BitVec.toNat h5)

/-- A handler that runs no instruction (R210, R211). -/
theorem step_of_handled {s u : State} {rest : List Event} {e : Event} (h : s.events = e :: rest)
    (hf : fetch e (beginStep s rest) = .handled u) : step s = .next (closing u) := by
  rw [step_of_events h, hf]
  rfl

theorem fetch_cmdT_refused {w : Word64} {d : List Byte} (s : State)
    (h : decodePortT w d = .error .wrongPort ∨ decodePortT w d = .error .reservedOpcode) :
    fetch (.cmdT w d) s = .handled (badCmdT s) := by
  change fetchPortT s w d = _
  delta fetchPortT
  rcases h with h | h <;> rw [h]

theorem fetch_cmdR_refused {w : Word64} {s : State} (hp : s.pullPend = false) (h : decodePortR w = .error .wrongPort) :
    fetch (.cmdR w) s = .handled (badCmdR s) := by
  change fetchPortR s w = _
  delta fetchPortR
  rw [hp, h]
  rfl

/-- Settles O13: the decoder rejects the word, and `BADCMD` is the whole handler. -/
theorem reservedCommandsAnswerBadCmd : Obligations.ReservedCommandsAnswerBadCmd :=
  ⟨fun _ _ _ d h hopc =>
      step_of_handled h (fetch_cmdT_refused _ (hopc.imp (decodePortT_pull d) (decodePortT_reserved d))),
    fun _ _ _ h hp hopc => step_of_handled h (fetch_cmdR_refused hp (decodePortR_wrongPort hopc))⟩

/-! ### `START` and `CLOSE` by phase (R187 to R189) -/

theorem exec_start_of_idle {s : State} (hp : s.phase = .idle) :
    exec .start s = .next (emitT (startStream s) .ok 0 0) := by
  simp only [exec, execStart, hp]

/-- A live stream has been started already. -/
theorem exec_start_of_live {s : State} (hp : s.phase.live = true) : exec .start s = .next (emitT s .ok 0 0) := by
  rcases (Phase.live_iff _).mp hp with hp | hp <;> simp only [exec, execStart, hp]

theorem exec_start_of_closed {s : State} (hp : s.phase = .closed) :
    exec .start s = .next (emitT s .closed 0 0) := by
  simp only [exec, execStart, hp]

theorem exec_start_of_dead {s : State} (hp : s.phase = .dead) : exec .start s = .next (emitT s .dead 0 0) := by
  simp only [exec, execStart, hp]

/-- Settles O17: only in phase IDLE does the stream start. -/
theorem startByPhase : Obligations.StartByPhase :=
  fun _ => ⟨exec_start_of_idle, fun hp => exec_start_of_live ((Phase.live_iff _).mpr hp), exec_start_of_closed,
    exec_start_of_dead⟩

/-- A stream that was never started is closed without a FIN (R188). -/
theorem exec_close_of_idle {s : State} (hp : s.phase = .idle) :
    exec .close s = .next (emitT (closeIdle s) .ok 0 0) := by
  simp only [exec, execClose, hp]

theorem exec_close_of_live {s : State} (hp : s.phase.live = true) :
    exec .close s = .next (emitT (doClose s .localClose) .ok 0 0) := by
  rcases (Phase.live_iff _).mp hp with hp | hp <;> simp only [exec, execClose, hp]

/-- `CLOSE` is idempotent, and answers OK in phase DEAD too (R188). -/
theorem exec_close_of_terminal {s : State} (hp : s.phase = .closed ∨ s.phase = .dead) :
    exec .close s = .next (emitT s .ok 0 0) := by
  rcases hp with hp | hp <;> simp only [exec, execClose, hp]

/-- Settles O18: a live stream is closed by `DO_CLOSE(1)`, which asks for a FIN. -/
theorem closeByPhase : Obligations.CloseByPhase :=
  fun _ => ⟨exec_close_of_idle, fun hp => exec_close_of_live ((Phase.live_iff _).mpr hp), exec_close_of_terminal⟩

end Sys2Proof.Machine

/-! SUPPORT. The statements of spec/45_arbiter_txmux.md: the cases of `TX_KICK` in their order of priority, the link
events `TX_BYTE` and `LINK_FAULT`, the closing procedures run a second time, and the transitions of `PHASE`. -/

namespace Sys2Proof.Machine

/-! ### The transmit multiplexer by priority (R212, R213) -/

section
variable {s : State} (hb : s.txbuf = [])
include hb

theorem txKick_of_fin (hp : s.phase = .closed) (hr : s.finReq = true) :
    txKick s = { loadFrame s 0x04 (lctrlFlags true s.frozen) 0x00 (localProposal s) .fin with finReq := false } := by
  simp [txKick, hb, hp, hr]

theorem txKick_of_closed (hp : s.phase = .closed) (hr : s.finReq = false) : txKick s = s := by
  simp [txKick, hb, hp, hr, Phase.live]

theorem txKick_of_lctrl (hp : s.phase.live = true) (hr : s.lctrlReq = true) :
    txKick s = { loadFrame s 0x04 (lctrlFlags false s.frozen) 0x00 (localProposal s) .lctrl with
      lctrlReq := false } := by
  have hc : s.phase ≠ .closed := fun hc => by simp [hc, Phase.live] at hp
  simp [txKick, hb, hp, hr, hc]

theorem txKick_of_negotiating (hp : s.phase = .negotiating) (hr : s.lctrlReq = false) : txKick s = s := by
  simp [txKick, hb, hp, hr]

theorem txKick_of_ack (hp : s.phase = .opened) (hl : s.lctrlReq = false) (hr : s.ackReq = .ack) :
    txKick s = { loadFrame s 0x02 0x00 (ackNumber s) [] .ack with ackReq := .none } := by
  simp [txKick, hb, hp, hl, hr]

theorem txKick_of_nack (hp : s.phase = .opened) (hl : s.lctrlReq = false) (hr : s.ackReq = .nack) :
    txKick s = { loadFrame s 0x03 0x00 (ackNumber s) [] .ack with ackReq := .none } := by
  simp [txKick, hb, hp, hl, hr]

/-- With no control frame asked for, DATA frames are looked for. -/
theorem txKick_of_noControl (hp : s.phase = .opened) (hl : s.lctrlReq = false) (hr : s.ackReq = .none) :
    txKick s = ((nextToSend s (List.range (nOut s))).map (loadData s)).getD s := by
  simp only [txKick, hb, hp, hl, hr]
  cases nextToSend s (List.range (nOut s)) <;> rfl

/-- Outside the live phases and CLOSED nothing is transmitted. -/
theorem txKick_of_unstarted_or_dead (hp : s.phase = .idle ∨ s.phase = .dead) : txKick s = s := by
  rcases hp with hp | hp <;> simp [txKick, hb, hp, Phase.live]

end

theorem nextToSend_of_quiet {s : State} {ks : List Nat} (h : ∀ k ∈ ks, (swAt s (outIndex s k)).txreq = false) :
    nextToSend s ks = none := by
  induction ks with
  | nil => rfl
  | cons k ks ih =>
    have hk : (swAt s (outIndex s k)).txreq = false := h k List.mem_cons_self
    simp [nextToSend, hk, ih fun m hm => h m (List.mem_cons_of_mem _ hm)]

/-- Frames that do not ask are passed over. -/
theorem nextToSend_append_of_quiet {s : State} {ks : List Nat}
    (h : ∀ k ∈ ks, (swAt s (outIndex s k)).txreq = false) (ls : List Nat) :
    nextToSend s (ks ++ ls) = nextToSend s ls := by
  induction ks with
  | nil => rfl
  | cons k ks ih =>
    have hk : (swAt s (outIndex s k)).txreq = false := h k List.mem_cons_self
    simp [nextToSend, hk, ih fun m hm => h m (List.mem_cons_of_mem _ hm)]

/-- The oldest outstanding frame that asks is the next to be sent (R212). -/
theorem nextToSend_of_oldest {s : State} {k : Nat} (hk : k < nOut s) (hr : (swAt s (outIndex s k)).txreq = true)
    (hold : ∀ m < k, (swAt s (outIndex s m)).txreq = false) :
    nextToSend s (List.range (nOut s)) = some (outIndex s k) := by
  obtain ⟨d, hd⟩ := Nat.exists_eq_add_of_lt hk
  rw [hd, Nat.add_assoc, List.range_add, nextToSend_append_of_quiet fun m hm => hold m (List.mem_range.mp hm),
    List.range_succ_eq_map]
  simp [nextToSend, hr]

/-- A slot that asks for transmission is inside the file. -/
theorem lt_length_of_txreq {s : State} {i : Nat} (h : (swAt s i).txreq = true) : i < s.sw.length := by
  by_contra hi
  rw [swAt_of_le (Nat.le_of_not_lt hi)] at h
  cases h

theorem byteAt_swPayload {s : State} {i o : Nat} (ho : o < (swAt s i).len.toNat) {b : Byte}
    (hb : (swAt s i).data.read o = some b) : byteAt (swPayload s i) o = b := by
  have hlen : o < (swPayload s i).length := by rwa [swPayload_length]
  rw [byteAt, List.getD_eq_getElem _ _ hlen]
  simp [swPayload, Memory.readRun, hb]

theorem lctrlFlags_true (frozen : Bool) : lctrlFlags true frozen = 2#8 + (if frozen then 1#8 else 0#8) := by
  cases frozen <;> decide

theorem lctrlFlags_false (frozen : Bool) : lctrlFlags false frozen = if frozen then 1#8 else 0#8 := by
  cases frozen <;> decide

/-- Settles O42: the cases of `TX_KICK` in their order; of the outstanding frames the scan takes the first that asks. -/
theorem transmitterServesByPriority : Obligations.TransmitterServesByPriority := by
  refine ⟨fun s => ?_, fun s i => ⟨swPayload_length s i, fun o ho b hb => byteAt_swPayload ho hb⟩⟩
  intro flags proposal
  refine ⟨fun hb => txKick_busy (List.length_pos_iff.mpr hb), fun hb => ⟨fun hp hr => ?_, fun hp hr => ?_,
    txKick_of_ack hb, txKick_of_nack hb, fun hp hl hr k hk hreq hold => ?_, fun hp hl hr hquiet => ?_,
    txKick_of_negotiating hb, txKick_of_closed hb, txKick_of_unstarted_or_dead hb⟩⟩
  · rw [txKick_of_fin hb hp hr, lctrlFlags_true]
    rfl
  · rw [txKick_of_lctrl hb ((Phase.live_iff _).mpr hp) hr, lctrlFlags_false]
    rfl
  · have hi : outIndex s k < s.sw.length := lt_length_of_txreq hreq
    have hslot := fun j => swAt_modifySw s (outIndex s k) j (fun slot => { slot with txreq := false }) hi
    rw [txKick_of_noControl hb hp hl hr, nextToSend_of_oldest hk hreq hold]
    exact ⟨_, rfl, (hslot _).trans (if_pos rfl), fun j hj => (hslot j).trans (if_neg hj)⟩
  · rw [txKick_of_noControl hb hp hl hr, nextToSend_of_quiet fun k hk => hquiet k (List.mem_range.mp hk)]
    rfl

/-! ### At rest after the closing procedures (R211) -/

/-- A second `TX_KICK` finds the transmitter busy, or does nothing again. -/
theorem txKick_txKick (s : State) : txKick (txKick s) = txKick s := by
  have h : txKick s = s ∨ (txKick s).txbuf ≠ [] := by
    refine txKick_keeps (P := fun t => t = s ∨ t.txbuf ≠ []) fun t ht => ?_
    cases ht with
    | idle => exact .inl rfl
    | fin | lctrl | ack | data => exact .inr (encodeFrame_ne_nil _ _ _ _)
  rcases h with h | h
  · rw [h, h]
  · exact txKick_busy (List.length_pos_iff.mpr h)

/-- Where a `PULL` stays pending, the second `DRAIN` of the step has nothing left to deliver. -/
theorem pullWaits_closing (s : State) : PullWaits (closing s) := by
  have hstuck := headReady_drain s
  intro hp
  rw [closing, txKick_frame] at hp ⊢
  generalize drain s = v at hstuck hp ⊢
  have hpend : (pullCheck v).pullPend = true := by
    rw [drain_frame] at hp
    exact hp
  obtain ⟨heq, hwaits⟩ := pullCheck_pending hpend
  rw [heq, drain_eq_self hstuck]
  exact hwaits

theorem txKick_closing (s : State) : txKick (closing s) = closing s := txKick_txKick _

theorem atRest_of_nothingToDo {s : State} (hready : headReady s = false) (hpull : PullWaits s)
    (hkick : txKick s = s) : AtRest s := by
  rw [AtRest, closing, drain_eq_self hready, pullCheck_eq_self hpull, drain_eq_self hready, hkick]

theorem atRest_closing (s : State) : AtRest (closing s) :=
  atRest_of_nothingToDo (headReady_closing s) (pullWaits_closing s) (txKick_closing s)

/-- Settles O15: nothing is left to do behind the closing procedures, and an event passed over leaves a state at rest
at rest. -/
theorem stepLeavesTheMachineAtRest : Obligations.StepLeavesTheMachineAtRest :=
  ⟨atRest_closing, fun _ _ h hs hr =>
    step_keeps_of_not_reset h hr hs (fun rest => hs.withOutputs rest {}) fun _ _ u _ _ => atRest_closing u⟩

/-! ### The link events (R214, R215, R218) -/

theorem fetch_txByte_cons {s : State} {b : Byte} {rest : List Byte} (hb : s.txbuf = b :: rest) :
    fetch .txByte s = .handled (onTxByte s b rest) := by
  simp only [fetch, hb]

/-- Behind every byte but the last the frame goes on (R214). -/
theorem onTxByte_of_more (s : State) (b : Byte) {rest : List Byte} (h : rest ≠ []) :
    onTxByte s b rest = emitWire { s with txbuf := rest } b := by
  simp [onTxByte, h]

theorem onTxByte_last (s : State) (b : Byte) : onTxByte s b [] = txDone (emitWire { s with txbuf := [] } b) := rfl

/-- Settles O43: the last byte is followed by the two cases of `TX_DONE`. -/
theorem txByteEmitsTheHeadByte : Obligations.TxByteEmitsTheHeadByte := by
  intro s evs b rest h hb s0
  have hstep : step s = .next (closing (onTxByte (beginStep s evs) b rest)) :=
    step_of_handled h (fetch_txByte_cons hb)
  rw [hstep]
  refine ⟨fun hrest => by rw [onTxByte_of_more _ _ hrest]; rfl, fun hrest i q hcur hst hseq hreq => ?_,
    fun hrest hno => ?_⟩
  all_goals
    subst hrest
    have hdone : onTxByte (beginStep s evs) b [] = txDone s0 := onTxByte_last _ _
    rw [hdone]
    rcases txDone_cases s0 with ⟨hno', hd⟩ | ⟨i', q', hcur', hst', hseq', hreq', hd⟩
  · exact absurd ⟨hst, hseq, hreq⟩ (hno' i q hcur)
  · obtain ⟨rfl, rfl⟩ := TxCur.data.inj (hcur.symm.trans hcur')
    rw [hd]
    rfl
  · rw [hd]
  · exact absurd ⟨hst', hseq', hreq'⟩ (hno i' q' hcur')

theorem faultCause_eq_none_iff (kind : BitVec 3) : faultCause kind = none ↔ ¬ (2 ≤ kind.toNat ∧ kind.toNat ≤ 5) := by
  revert kind
  decide

/-- The kinds of link faults are the codes of the causes (R218, R238). -/
theorem code_of_faultCause {kind : BitVec 3} {c : DeadCause} (h : faultCause kind = some c) : c.code = kind := by
  revert kind c
  decide

theorem onLinkFault_of_reserved {s : State} {kind : BitVec 3} (h : faultCause kind = none) :
    onLinkFault s kind = s := by
  simp only [onLinkFault, h]

theorem onLinkFault_of_cause {s : State} {kind : BitVec 3} {c : DeadCause} (h : faultCause kind = some c) :
    onLinkFault s kind = if s.phase.live then fatal s c 0
      else if s.phase = .closed then { s with txbuf := [], txCur := .none, finReq := false } else s := by
  simp only [onLinkFault, h]

/-- Settles O41: a kind without a cause is ignored; with one, the three cases of the phase. -/
theorem linkFaultByPhase : Obligations.LinkFaultByPhase := by
  intro s rest kind h s0
  have hstep : step s = .next (closing (onLinkFault s0 kind)) := step_of_handled h rfl
  have hcause : 2 ≤ kind.toNat ∧ kind.toNat ≤ 5 → ∃ c, faultCause kind = some c := fun hk =>
    Option.ne_none_iff_exists'.mp fun hn => (faultCause_eq_none_iff kind).mp hn hk
  have hs0 : s0.phase = s.phase := rfl
  rw [hstep]
  refine ⟨fun hk => ?_, fun hk hp => ?_, fun hk hp => ?_, fun hp => ?_⟩
  · rw [onLinkFault_of_reserved ((faultCause_eq_none_iff kind).mpr hk)]
  · obtain ⟨c, hc⟩ := hcause hk
    have hlive : s0.phase.live = true := (Phase.live_iff _).mpr hp
    refine ⟨c, code_of_faultCause hc, ?_⟩
    rw [onLinkFault_of_cause hc, if_pos hlive]
    rfl
  · obtain ⟨c, hc⟩ := hcause hk
    rw [onLinkFault_of_cause hc, hs0, hp]
    rfl
  · cases hc : faultCause kind with
    | none => rw [onLinkFault_of_reserved hc]
    | some c => rcases hp with hp | hp <;> rw [onLinkFault_of_cause hc, hs0, hp] <;> rfl

/-! ### What the closing procedures leave of the link (R211) -/

/-- What depends on none of the fields of `closing_frame` is the same behind the closing procedures. -/
theorem closing_unread {α : Type} (f : State → α)
    (hf : ∀ s app rb rcvExp irqStatus ackReq pullPend out txbuf txCur finReq lctrlReq sw, f { s with
      app := app, rb := rb, rcvExp := rcvExp, irqStatus := irqStatus, ackReq := ackReq, pullPend := pullPend,
      out := out, txbuf := txbuf, txCur := txCur, finReq := finReq, lctrlReq := lctrlReq, sw := sw } = f s)
    (s : State) : f (closing s) = f s := by
  obtain ⟨_, _, _, _, _, _, _, _, _, _, _, _, h⟩ := closing_frame s
  rw [h, hf]

@[simp] theorem closing_phase (s : State) : (closing s).phase = s.phase :=
  closing_unread State.phase (by intros; rfl) s
@[simp] theorem closing_rxEn (s : State) : (closing s).rxEn = s.rxEn := closing_unread State.rxEn (by intros; rfl) s
@[simp] theorem closing_closeCause (s : State) : (closing s).closeCause = s.closeCause :=
  closing_unread State.closeCause (by intros; rfl) s
@[simp] theorem closing_deadCause (s : State) : (closing s).deadCause = s.deadCause :=
  closing_unread State.deadCause (by intros; rfl) s
@[simp] theorem closing_deadInfo (s : State) : (closing s).deadInfo = s.deadInfo :=
  closing_unread State.deadInfo (by intros; rfl) s
@[simp] theorem closing_lctrlDeadline (s : State) : (closing s).lctrlDeadline = s.lctrlDeadline :=
  closing_unread State.lctrlDeadline (by intros; rfl) s
@[simp] theorem closing_frozen (s : State) : (closing s).frozen = s.frozen :=
  closing_unread State.frozen (by intros; rfl) s
@[simp] theorem closing_effPkt (s : State) : (closing s).effPkt = s.effPkt :=
  closing_unread State.effPkt (by intros; rfl) s
@[simp] theorem closing_effWin (s : State) : (closing s).effWin = s.effWin :=
  closing_unread State.effWin (by intros; rfl) s

/-- Outside phase OPEN the closing procedures are `TX_KICK` behind at most an answered `PULL`. -/
theorem closing_eq_txKick {s : State} (hp : s.phase ≠ .opened) :
    ∃ app pend out, closing s = txKick { s with app := app, pullPend := pend, out := out } :=
  ⟨_, _, _, (closing_of_not_opened hp).trans (congrArg txKick (pullCheck_frame s))⟩

/-- A proposal asked for in phase NEGOTIATING is loaded at once, unless a frame is in progress (R212). -/
theorem closing_of_lctrlReq {s : State} (hp : s.phase = .negotiating) (hr : s.lctrlReq = true) :
    if s.txbuf = [] then (closing s).txCur = .lctrl ∧ (closing s).lctrlReq = false
    else (closing s).lctrlReq = true := by
  obtain ⟨app, pend, out, hc⟩ := closing_eq_txKick (s := s) (by simp [hp])
  have hlive : s.phase.live = true := (Phase.live_iff _).mpr (.inl hp)
  rw [hc]
  split
  · next hb =>
    rw [txKick_of_lctrl (s := { s with app := app, pullPend := pend, out := out }) hb hlive hr]
    exact ⟨rfl, rfl⟩
  · next hb =>
    rw [txKick_busy (s := { s with app := app, pullPend := pend, out := out }) (List.length_pos_iff.mpr hb)]
    exact hr

/-- A FIN asked for in phase CLOSED is loaded at once, unless a frame is in progress (R212). -/
theorem closing_of_finReq {s : State} (hp : s.phase = .closed) (hr : s.finReq = true) :
    if s.txbuf = [] then (closing s).txCur = .fin ∧ (closing s).finReq = false else (closing s).finReq = true := by
  obtain ⟨app, pend, out, hc⟩ := closing_eq_txKick (s := s) (by simp [hp])
  rw [hc]
  split
  · next hb =>
    rw [txKick_of_fin (s := { s with app := app, pullPend := pend, out := out }) hb hp hr]
    exact ⟨rfl, rfl⟩
  · next hb =>
    rw [txKick_busy (s := { s with app := app, pullPend := pend, out := out }) (List.length_pos_iff.mpr hb)]
    exact hr

/-- With no FIN asked for, phase CLOSED loads nothing. -/
theorem closing_of_noFin {s : State} (hp : s.phase = .closed) (hr : s.finReq = false) :
    (closing s).finReq = false ∧ (closing s).txbuf = s.txbuf := by
  obtain ⟨app, pend, out, hc⟩ := closing_eq_txKick (s := s) (by simp [hp])
  have hkick : txKick { s with app := app, pullPend := pend, out := out }
      = { s with app := app, pullPend := pend, out := out } := by
    by_cases hb : s.txbuf = []
    · exact txKick_of_closed (s := { s with app := app, pullPend := pend, out := out }) hb hp hr
    · exact txKick_busy (List.length_pos_iff.mpr hb)
  rw [hc, hkick]
  exact ⟨hr, rfl⟩

/-! ### The frame that a dying stream blames (R136, R237) -/

/-- A scan that kills the stream saves the number of a frame that was due when the scan began: a slot queued again on
the way, which another frame may share, was due itself and keeps its number. -/
theorem scanTimers_killed {s : State} {ks : List Nat} (hs : s.phase ≠ .dead) (h : (scanTimers s ks).phase = .dead) :
    (scanTimers s ks).deadCause = .retryExhausted ∧
    ∃ k ∈ ks, (swAt s (outIndex s k)).deadline = s.now ∧
      (scanTimers s ks).deadInfo = (swAt s (outIndex s k)).seq := by
  induction ks generalizing s with
  | nil => exact absurd h hs
  | cons k ks ih =>
    simp only [scanTimers] at h ⊢
    by_cases hdue : (swAt s (outIndex s k)).deadline = s.now
    · rw [if_pos hdue] at h ⊢
      rcases Nat.lt_or_ge (swAt s (outIndex s k)).retry.toNat s.retryMax.toNat with hleft | hmax
      · have halive : (modifySw s (outIndex s k) (requeued s)).phase ≠ .dead := hs
        have hindex : ∀ m, outIndex (modifySw s (outIndex s k) (requeued s)) m = outIndex s m := fun _ => rfl
        rw [onTimeout_of_retryLeft hleft, if_neg halive] at h ⊢
        obtain ⟨hcause, m, hm, hdue', hinfo⟩ := ih halive h
        rw [hindex, modifySw_now] at hdue'
        rw [hindex] at hinfo
        rcases swAt_modifySw_cases s (outIndex s k) (outIndex s m) (requeued s) with hslot | ⟨hsame, -, hslot⟩ <;>
          rw [hslot] at hdue' hinfo
        · exact ⟨hcause, m, List.mem_cons_of_mem _ hm, hdue', hinfo⟩
        · exact ⟨hcause, k, List.mem_cons_self, hdue, hinfo.trans (congrArg (fun j => (swAt s j).seq) hsame)⟩
      · rw [onTimeout_of_exhausted hmax, if_pos (fatal_phase _ _ _)]
        exact ⟨rfl, k, List.mem_cons_self, hdue, rfl⟩
    · rw [if_neg hdue] at h ⊢
      obtain ⟨hcause, m, hm, hfacts⟩ := ih hs h
      exact ⟨hcause, m, List.mem_cons_of_mem _ hm, hfacts⟩

/-- A `TICK` changes the phase only by the retry ceiling. -/
theorem onTick_killed {s : State} (hne : (onTick s).phase ≠ s.phase) :
    s.phase = .opened ∧ (onTick s).phase = .dead ∧ (onTick s).deadCause = .retryExhausted ∧
    ∃ k < nOut s, (swAt s (outIndex s k)).deadline = s.now + 1 ∧
      (onTick s).deadInfo = (swAt s (outIndex s k)).seq := by
  rw [onTick, pullTick_frame, lctrlTick_frame] at hne ⊢
  generalize (lctrlTick { s with now := s.now + 1 }).lctrlReq = req at hne ⊢
  generalize (lctrlTick { s with now := s.now + 1 }).lctrlDeadline = deadline at hne ⊢
  dsimp only at hne ⊢
  rcases senderTick_cases { s with now := s.now + 1, lctrlReq := req, lctrlDeadline := deadline }
    with ⟨sw, h⟩ | ⟨hp, sw, info, h⟩
  · exact absurd (by rw [h]) hne
  · have hdead := congrArg State.phase h
    have hp' : s.phase = .opened := hp
    rw [senderTick_of_opened hp] at hdead ⊢
    obtain ⟨hcause, k, hk, hdue, hinfo⟩ := scanTimers_killed (by simp [hp']) hdead
    exact ⟨hp', hdead, hcause, k, List.mem_range.mp hk, hdue, hinfo⟩

/-! ### Where an instruction comes from -/

theorem rowTag_of_decodePortT {w : Word64} {d : List Byte} {i : Instr} (h : decodePortT w d = .ok i) :
    Laws.rowTag i = .portT (opcOf w) := by
  have htag : ∀ opc : Byte, (opcOf w).toNat = opc.toNat → Laws.RowTag.portT opc = .portT (opcOf w) :=
    fun opc hopc => congrArg _ (BitVec.eq_of_toNat_eq hopc).symm
  unfold decodePortT at h
  split at h
  case h_5 hopc =>
    dsimp only at h
    split at h <;> cases h
    exact htag _ hopc
  case h_6 | h_9 => cases h
  all_goals
    next hopc =>
    cases h
    exact htag _ hopc

theorem rowTag_of_decodePortR {w : Word64} {i : Instr} (h : decodePortR w = .ok i) :
    Laws.rowTag i = .portR (opcOf w) := by
  unfold decodePortR at h
  split at h <;> cases h
  next hopc => exact congrArg _ hopc.symm

theorem rowTag_of_decodeFrame {F : List Byte} {i : Instr} (h : decodeFrame F = .ok i) :
    ∃ type, Laws.rowTag i = .frame type := by
  rcases decodeFrame_isFrame h with ⟨_, _, _, rfl⟩ | ⟨_, rfl⟩ | ⟨_, rfl⟩ | ⟨_, _, _, rfl⟩ | ⟨_, _, _, rfl⟩ <;>
    exact ⟨_, rfl⟩

/-- A command is fetched from the port that its row names, and runs on the state it is met in. -/
theorem fetch_command {e : Event} {i : Instr} {s u : State} (h : fetch e s = .command i u) :
    u = s ∧ ((∃ w d, e = .cmdT w d ∧ Laws.rowTag i = .portT (opcOf w)) ∨
      ∃ w, e = .cmdR w ∧ Laws.rowTag i = .portR (opcOf w)) := by
  rcases fetch_cases e s with h' | ⟨w, d, j, he, hj, h'⟩ | ⟨w, j, he, -, hj, h'⟩ | ⟨_, _, -, h'⟩ | ⟨_, -, -, h'⟩ |
    ⟨_, -, -, -, h'⟩ | ⟨-, -, h'⟩ | ⟨-, _, _, -, h'⟩ | ⟨_, -, h'⟩ | ⟨-, h'⟩ | ⟨-, h'⟩ <;> rw [h'] at h
  case inr.inr.inr.inr.inr.inr.inl =>
    rcases rxFlag_cases { s with rxEn := false } with ⟨_, h', -⟩ | h' | ⟨_, h'⟩ <;> rw [h'] at h <;> cases h
  all_goals cases h
  · exact ⟨rfl, .inl ⟨w, d, he, rowTag_of_decodePortT hj⟩⟩
  · exact ⟨rfl, .inr ⟨w, he, rowTag_of_decodePortR hj⟩⟩

/-- `i` is the checked frame that the closing flag completes (R115, R116). -/
abbrev CompletesFrame (s : State) (i : Instr) : Prop :=
  s.rxEn = true ∧ s.rxs = .inframe ∧ s.rxEsc = false ∧ frameCheck s (rxBody s) = .ok i

theorem fetch_received {e : Event} {i : Instr} {s u : State} (h : fetch e s = .received i u) :
    u = { s with rxEn := false } ∧ e = .rxByte flagByte ∧ CompletesFrame s i := by
  rcases fetch_cases e s with h' | ⟨_, _, _, -, -, h'⟩ | ⟨_, _, -, -, -, h'⟩ | ⟨_, _, -, h'⟩ | ⟨_, -, -, h'⟩ |
    ⟨_, -, -, -, h'⟩ | ⟨rfl, he, h'⟩ | ⟨-, _, _, -, h'⟩ | ⟨_, -, h'⟩ | ⟨-, h'⟩ | ⟨-, h'⟩ <;> rw [h'] at h
  case inr.inr.inr.inr.inr.inr.inl =>
    rcases rxFlag_cases { s with rxEn := false } with ⟨_, h', hrxs, hesc, -, hi⟩ | h' | ⟨_, h'⟩ <;> rw [h'] at h <;>
      cases h
    exact ⟨rfl, rfl, he, hrxs, hesc, hi⟩
  all_goals cases h

/-! ### The transitions of `PHASE` (R220) -/

/-- `START`, `CLOSE` and the two LCTRL frames apart, no meaning changes the phase. -/
theorem exec_keeps_phase {i : Instr} {s v : State} (hx : exec i s = .next v) (hstart : i ≠ .start)
    (hclose : i ≠ .close) (hlctrl : ∀ rsp pkt win, i ≠ .lctrl rsp pkt win)
    (hfin : ∀ rsp pkt win, i ≠ .lctrlFin rsp pkt win) : v.phase = s.phase := by
  cases i with
  | start => exact absurd rfl hstart
  | close => exact absurd rfl hclose
  | lctrl rsp pkt win => exact absurd rfl (hlctrl rsp pkt win)
  | lctrlFin rsp pkt win => exact absurd rfl (hfin rsp pkt win)
  | nop | rdcsr => cases hx; rfl
  | schedLctrl =>
    simp only [exec, execSchedLctrl] at hx
    split at hx <;> cases hx <;> rfl
  | push buf =>
    simp only [exec, execPush] at hx
    split at hx <;> cases hx
    case h_3 => rw [emitT_phase, pushOpen, pushLoop_frame]
    all_goals rfl
  | pull n timeout =>
    cases hx
    rcases pullCommand_cases s n timeout with ⟨-, h⟩ | ⟨-, h⟩ <;> rw [h] <;> rfl
  | wrcsr idx v =>
    cases hx
    exact csrWrite_keeps (P := fun u => u.phase = s.phase) rfl (fun c v => by rw [csrStore_frame]) idx v
  | data q a p =>
    simp only [exec, execData] at hx
    split at hx <;> cases hx
    · rw [onFrame_frame, onAck_frame]
    · exact drop_phase s .seq
  | ack a =>
    simp only [exec, execAck] at hx
    split at hx <;> cases hx
    · rw [onAck_frame]
    · exact drop_phase s .seq
  | nack a =>
    simp only [exec, execNack] at hx
    split at hx <;> cases hx
    · rw [onNack_frame]
    · exact drop_phase s .seq

/-- The five changes of the phase that a meaning can make. -/
theorem exec_phase {i : Instr} {s v : State} (hx : exec i s = .next v) (hne : v.phase ≠ s.phase) :
    (i = .start ∧ s.phase = .idle ∧ v = emitT (startStream s) .ok 0 0) ∨
    (i = .close ∧ s.phase = .idle ∧ v = emitT (closeIdle s) .ok 0 0) ∨
    (i = .close ∧ s.phase.live = true ∧ v = emitT (doClose s .localClose) .ok 0 0) ∨
    (∃ rsp pkt win req, i = .lctrl rsp pkt win ∧ s.phase = .negotiating ∧
      v = { freeze s pkt win with lctrlReq := req }) ∨
    ∃ rsp pkt win, i = .lctrlFin rsp pkt win ∧ v = doClose s .peerFin := by
  cases i with
  | start =>
    simp only [exec, execStart] at hx
    split at hx <;> cases hx
    case h_1 hp => exact .inl ⟨rfl, hp, rfl⟩
    all_goals exact absurd rfl hne
  | close =>
    simp only [exec, execClose] at hx
    split at hx <;> cases hx
    case h_1 hp => exact .inr (.inl ⟨rfl, hp, rfl⟩)
    case h_2 hp | h_3 hp => exact .inr (.inr (.inl ⟨rfl, by rw [hp]; rfl, rfl⟩))
    all_goals exact absurd rfl hne
  | lctrl rsp pkt win =>
    cases hx
    rcases onLctrl_cases s rsp pkt win with ⟨hp, h⟩ | ⟨-, h⟩
    · exact .inr (.inr (.inr (.inl ⟨rsp, pkt, win, _, rfl, hp, h⟩)))
    · exact absurd (by rw [h]) hne
  | lctrlFin rsp pkt win =>
    cases hx
    exact .inr (.inr (.inr (.inr ⟨rsp, pkt, win, rfl, rfl⟩)))
  | nop | schedLctrl | push | pull | rdcsr | wrcsr | data | ack | nack =>
    exact absurd (exec_keeps_phase hx nofun nofun nofun nofun) hne

/-- A row of R220 but for reset: the event, its condition, and the state its handler leaves. -/
inductive PhaseChange (s : State) : Event → State → Prop
  | start (w : Word64) (d : List Byte) (hw : opcOf w = 1#8) (hp : s.phase = .idle) :
    PhaseChange s (.cmdT w d) (emitT (startStream s) .ok 0 0)
  | closeIdle (w : Word64) (d : List Byte) (hw : opcOf w = 2#8) (hp : s.phase = .idle) :
    PhaseChange s (.cmdT w d) (emitT (closeIdle s) .ok 0 0)
  | close (w : Word64) (d : List Byte) (hw : opcOf w = 2#8) (hp : s.phase.live = true) :
    PhaseChange s (.cmdT w d) (emitT (doClose s .localClose) .ok 0 0)
  | lctrl (rsp : Bool) (pkt : BitVec 16) (win : Byte) (req : Bool) (hf : CompletesFrame s (.lctrl rsp pkt win))
      (hp : s.phase = .negotiating) :
    PhaseChange s (.rxByte flagByte) (finishFlag { freeze { s with rxEn := false } pkt win with lctrlReq := req })
  | lctrlFin (rsp : Bool) (pkt : BitVec 16) (win : Byte) (hf : CompletesFrame s (.lctrlFin rsp pkt win)) :
    PhaseChange s (.rxByte flagByte) (finishFlag (doClose { s with rxEn := false } .peerFin))
  | linkFault (kind : BitVec 3) (c : DeadCause) (hc : faultCause kind = some c) (hp : s.phase.live = true) :
    PhaseChange s (.linkFault kind) (fatal s c 0)
  | timeout (hp : s.phase = .opened) (hd : (onTick s).phase = .dead)
      (hc : (onTick s).deadCause = .retryExhausted) (k : Nat) (hk : k < nOut s)
      (hdue : (swAt s (outIndex s k)).deadline = s.now + 1)
      (hinfo : (onTick s).deadInfo = (swAt s (outIndex s k)).seq) : PhaseChange s .tick (onTick s)

theorem phaseChange_of_command {e : Event} {i : Instr} {s u v : State} (h : fetch e s = .command i u)
    (hx : exec i u = .next v) (hne : v.phase ≠ s.phase) : PhaseChange s e v := by
  obtain ⟨rfl, hport⟩ := fetch_command h
  have hopc : ∀ {opc}, Laws.rowTag i = .portT opc → ∃ w d, e = .cmdT w d ∧ opcOf w = opc := by
    intro opc htag
    rcases hport with ⟨w, d, he, ht⟩ | ⟨w, -, ht⟩ <;> rw [htag] at ht <;> cases ht
    exact ⟨w, d, he, rfl⟩
  have hframe : ∀ {type}, Laws.rowTag i ≠ .frame type := by
    intro type htag
    rcases hport with ⟨w, d, -, ht⟩ | ⟨w, -, ht⟩ <;> rw [htag] at ht <;> cases ht
  rcases exec_phase hx hne with ⟨rfl, hp, rfl⟩ | ⟨rfl, hp, rfl⟩ | ⟨rfl, hp, rfl⟩ | ⟨_, _, _, _, rfl, -⟩ |
    ⟨_, _, _, rfl, -⟩
  · obtain ⟨w, d, rfl, hw⟩ := hopc rfl
    exact .start w d hw hp
  · obtain ⟨w, d, rfl, hw⟩ := hopc rfl
    exact .closeIdle w d hw hp
  · obtain ⟨w, d, rfl, hw⟩ := hopc rfl
    exact .close w d hw hp
  · exact absurd rfl hframe
  · exact absurd rfl hframe

theorem phaseChange_of_received {e : Event} {i : Instr} {s u v : State} (h : fetch e s = .received i u)
    (hx : exec i u = .next v) (hne : (finishFlag v).phase ≠ s.phase) : PhaseChange s e (finishFlag v) := by
  obtain ⟨rfl, rfl, hf⟩ := fetch_received h
  obtain ⟨type, htag⟩ : ∃ type, Laws.rowTag i = .frame type := by
    obtain ⟨-, -, -, hcheck⟩ := hf
    exact rowTag_of_decodeFrame (frameCheck_ok hcheck).1
  have hne' : v.phase ≠ s.phase := by
    rw [finishFlag_frame] at hne
    exact hne
  rcases exec_phase hx hne' with ⟨rfl, -⟩ | ⟨rfl, -⟩ | ⟨rfl, -⟩ | ⟨rsp, pkt, win, req, rfl, hp, rfl⟩ |
    ⟨rsp, pkt, win, rfl, rfl⟩
  · cases htag
  · cases htag
  · cases htag
  · exact .lctrl rsp pkt win req hf hp
  · exact .lctrlFin rsp pkt win hf

theorem phaseChange_of_handled {e : Event} {s u : State} (h : fetch e s = .handled u) (hne : u.phase ≠ s.phase) :
    PhaseChange s e u := by
  rcases fetch_cases e s with h' | ⟨_, _, _, -, -, h'⟩ | ⟨_, _, -, -, -, h'⟩ | ⟨_, _, -, h'⟩ | ⟨_, -, -, h'⟩ |
    ⟨b, -, -, -, h'⟩ | ⟨-, -, h'⟩ | ⟨-, b, rest, -, h'⟩ | ⟨k, rfl, h'⟩ | ⟨rfl, h'⟩ | ⟨-, h'⟩ <;> rw [h'] at h
  case inr.inr.inr.inr.inr.inr.inl =>
    rcases rxFlag_cases { s with rxEn := false } with ⟨_, h', -⟩ | h' | ⟨c, h'⟩ <;> rw [h'] at h <;> cases h
    · exact absurd (by rw [finishFlag_frame]) hne
    · exact absurd (by rw [finishFlag_frame]; exact drop_phase _ c) hne
  all_goals cases h
  · exact absurd rfl hne
  · exact absurd rfl hne
  · exact absurd (by rw [endRxByte_rxDecodeByte_frame]) hne
  · exact absurd (by rw [onTxByte_frame]) hne
  · rcases onLinkFault_cases s k with h | ⟨c, hc, hp, h⟩ | ⟨-, h⟩
    · exact absurd (by rw [h]) hne
    · rw [h]
      exact .linkFault k c hc hp
    · exact absurd (by rw [h]) hne
  · obtain ⟨hp, hd, hc, k, hk, hdue, hinfo⟩ := onTick_killed hne
    exact .timeout hp hd hc k hk hdue hinfo

/-- A step that changes the phase is reset, or takes one of the events of R220. -/
theorem step_phaseChange {s t : State} (h : step s = .next t) (hne : t.phase ≠ s.phase) :
    ∃ e rest, s.events = e :: rest ∧
      ((e = .reset ∧ t = resetEvent (beginStep s rest)) ∨ ∃ u, PhaseChange (beginStep s rest) e u ∧ t = closing u) := by
  rcases step_cases h with ⟨-, rfl⟩ | ⟨e, rest, he, ⟨-, rfl⟩ | hr | ⟨u, hf, rfl⟩ | ⟨i, u, v, hf, hx, rfl⟩ |
    ⟨i, u, v, hf, hx, rfl⟩⟩
  · exact absurd rfl hne
  · exact absurd rfl hne
  · exact ⟨e, rest, he, .inl (fetch_wasReset hr)⟩
  all_goals rw [closing_phase] at hne
  · exact ⟨e, rest, he, .inr ⟨_, phaseChange_of_handled hf hne, rfl⟩⟩
  · exact ⟨e, rest, he, .inr ⟨_, phaseChange_of_command hf hx hne, rfl⟩⟩
  · exact ⟨e, rest, he, .inr ⟨_, phaseChange_of_received hf hx hne, rfl⟩⟩

/-- The notification of a freeze stays set to the end of the step (R34, R174). -/
theorem negotiated_closing_finishFlag_freeze (s : State) (pkt : BitVec 16) (win : Byte) (req : Bool) :
    (closing (finishFlag { freeze s pkt win with lctrlReq := req })).irqStatus.getLsbD 2 = true := by
  have hset : (freeze s pkt win).irqStatus.getLsbD 2 = true := by simp [freeze, setIrq, IrqFlag.bit]
  have hkept : IrqKept (freeze s pkt win) (closing (finishFlag { freeze s pkt win with lctrlReq := req })) :=
    irqKept_closing (irqKept_finishFlag ⟨fun _ h => h, rfl⟩)
  exact hkept.1 2 hset

/-- Settles O47: each row of `PhaseChange`, with the closing procedures behind it. -/
theorem phaseChangesOnlyAsListed : Obligations.PhaseChangesOnlyAsListed := by
  intro s t hl h hne
  obtain ⟨hrx, -, -, hfin, -⟩ := hl
  obtain ⟨e, rest, he, ⟨rfl, rfl⟩ | ⟨u, hu, rfl⟩⟩ := step_phaseChange h hne
  · exact .inl ⟨rest, he, rfl, rfl⟩
  have hhead : s.events.head? = some e := by rw [he]; rfl
  refine .inr ?_
  cases hu with
  | start w d hw hp =>
    have hload := closing_of_lctrlReq (s := emitT (startStream (beginStep s rest)) .ok 0 0) rfl rfl
    exact .inl ⟨w, d, hhead, hw, hp, closing_phase _, closing_rxEn _, closing_lctrlDeadline _, hload⟩
  | closeIdle w d hw hp =>
    have hp' : s.phase = .idle := hp
    have hnofin : s.finReq = false := by simpa [hp'] using hfin
    obtain ⟨hf, hb⟩ := closing_of_noFin (s := emitT (closeIdle (beginStep s rest)) .ok 0 0) rfl hnofin
    exact .inr (.inl ⟨w, d, hhead, hw, hp, closing_phase _, closing_closeCause _, hf, hb⟩)
  | close w d hw hp =>
    have hload := closing_of_finReq (s := emitT (doClose (beginStep s rest) .localClose) .ok 0 0) rfl rfl
    exact .inr (.inr (.inr (.inl ⟨w, d, hhead, hw, (Phase.live_iff _).mp hp, closing_phase _, closing_closeCause _,
      closing_rxEn _, hload⟩)))
  | lctrl rsp pkt win req hf hp =>
    obtain ⟨-, hrxs, hesc, hcheck⟩ := hf
    refine .inr (.inr (.inl ⟨rsp, pkt, win, hhead, hrxs, hesc, hcheck, hp, ?_, ?_, ?_, ?_,
      negotiated_closing_finishFlag_freeze _ pkt win req⟩))
    · rw [closing_phase, finishFlag_frame]
      rfl
    · rw [closing_effPkt, finishFlag_frame]
      exact freeze_effPkt_toNat _ pkt win
    · rw [closing_effWin, finishFlag_frame]
      exact freeze_effWin_toNat _ pkt win
    · rw [closing_frozen, finishFlag_frame]
      rfl
  | lctrlFin rsp pkt win hf =>
    obtain ⟨hen, hrxs, hesc, hcheck⟩ := hf
    exact .inr (.inr (.inr (.inr (.inl ⟨rsp, pkt, win, hhead, hrxs, hesc, hcheck, hrx.mp hen, closing_phase _,
      closing_closeCause _, closing_rxEn _⟩))))
  | linkFault kind c hc hp =>
    have hkind : 2 ≤ kind.toNat ∧ kind.toNat ≤ 5 := by
      by_contra hk
      rw [(faultCause_eq_none_iff kind).mpr hk] at hc
      cases hc
    have hcode : (closing (fatal (beginStep s rest) c 0)).deadCause.code = kind := by
      rw [closing_deadCause]
      exact code_of_faultCause hc
    exact .inr (.inr (.inr (.inr (.inr (.inl ⟨kind, hhead, hkind.1, hkind.2, (Phase.live_iff _).mp hp,
      closing_phase _, hcode⟩)))))
  | timeout hp hd hc k hk hdue hinfo =>
    exact .inr (.inr (.inr (.inr (.inr (.inr ⟨hhead, hp, (closing_phase _).trans hd, (closing_deadCause _).trans hc,
      k, hk, hdue, (closing_deadInfo _).trans hinfo⟩)))))

end Sys2Proof.Machine

/-! SUPPORT. The statement of spec/60_exceptions.md: the exact effect of `FATAL` on the state, and that the link is
released afterwards. -/

namespace Sys2Proof.Machine

/-- DEAD is bit 4 of the interrupt flags (R34). -/
theorem irqFlag_bit_dead : IrqFlag.bit .dead = 0b10000#5 := by decide

/-- `FATAL` as one record update (R237, R243): every field it does not name keeps its value. -/
theorem fatal_frame (s : State) (cause : DeadCause) (info : Byte) :
    fatal s cause info = { s with
      phase := .dead, deadCause := cause, deadInfo := info, rxEn := false, txbuf := [], txCur := .none,
      irqStatus := s.irqStatus ||| IrqFlag.bit .dead } := rfl

/-- Settles O40: the record update of `fatal_frame`; DEAD alone releases the link. -/
theorem fatalSavesCauseAndStopsTheLink : Obligations.FatalSavesCauseAndStopsTheLink := by
  intro s cause info
  have heffect := fatal_frame s cause info
  rw [irqFlag_bit_dead] at heffect
  exact ⟨heffect, (linkReleased_iff _).mpr (.inl (fatal_phase s cause info))⟩

end Sys2Proof.Machine
